-- ==== Sys2Proof/Word.lean ====
section
/-! DEFINITION. The data the block moves: bytes, nibbles, 32-bit operands, the request record, the bus and delay
events, the responses and the environment's answers. -/

namespace Sys2Proof

/-- A byte, 8 bits (00_scope.md section 6.1). -/
abbrev Byte := BitVec 8

/-- A nibble, 4 bits (00_scope.md section 6.1). -/
abbrev Nibble := BitVec 4

/-- An integer operand of a request: 32 bits, read as two's complement (30_encoding.md R50). -/
abbrev Word := BitVec 32

/-- The three units of the block (00_scope.md R1). -/
inductive UnitId where
  | seg
  | mat
  | lcd
deriving DecidableEq, Repr

/-- The two kinds of timed wait (60_exceptions.md R152). -/
inductive DelayKind where
  | pulse
  | settle
deriving DecidableEq, Repr

/-- One event of a unit's output trace (20_memory.md R30 to R34, 60_exceptions.md R152). -/
inductive Event where
  /-- SEG: a transaction at register address `addr` with no payload (R31). -/
  | busStrobe (addr : Byte)
  /-- SEG: the first `len` bytes of `buf`, written from register address `addr` on (R32). -/
  | busBulk (addr : Byte) (buf : List Byte) (len : Nat)
  /-- MAT: a command byte, then a data byte (R33). -/
  | busFrame (cmd data : Byte)
  /-- LCD: one byte written to one expander register (R34). -/
  | busReg (addr value : Byte)
  /-- LCD: a blocking timed wait (60_exceptions.md R152). -/
  | delay (kind : DelayKind)
deriving DecidableEq, Repr

/-- What the environment answers to one call: a bus answers success or failure (20_memory.md R35), the timer answers
done or interrupted (60_exceptions.md R143). `complete` is success or done, `fail` is failure or interrupted; which of
the two pairs is meant follows from the call that is answered. DESIGN CHOICE, safe: log entry 9. -/
inductive Answer where
  | complete
  | fail
deriving DecidableEq, Repr

/-- The status codes (30_encoding.md R53); codes 5 to 15 are never produced and have no constructor. -/
inductive Status where
  | ok
  | invalidArgument
  | transportFailure
  | interrupted
  | unknownOperation
deriving DecidableEq, Repr

/-- A response (30_encoding.md R53, R54): a status and a one-bit value. -/
structure Response where
  status : Status
  value  : Bool
deriving DecidableEq, Repr

/-- A request (30_encoding.md R50). `a` and `b` are signed; `text` may be empty. -/
structure Request where
  opcode : Byte
  a      : Word
  b      : Word
  flag   : Bool
  text   : List Byte
deriving DecidableEq, Repr

end Sys2Proof
end

