-- ==== Sys2Proof/Config.lean ====
section
/-! DEFINITION. The implementation parameters of 00_scope.md section 4: the fixed ones as definitions, the open ones as
the fields of one record, the constraints the spec puts on them, and the one configuration the machine runs with, of
which nothing but those constraints can be known. -/

namespace Sys2Proof

/-! ### Fixed parameters (00_scope.md sections 4.1 and 4.2) -/

/-- `SEG_BUF_LEN`. -/
abbrev segBufLen : Nat := 16
/-- `SEG_CMD_DISPLAY_DATA`. -/
abbrev segCmdDisplayData : Nibble := 0
/-- `SEG_SET_DISPLAY_DATA`. -/
abbrev segSetDisplayData : Nibble := 0
/-- `SEG_DATA_BASE_REG`. -/
abbrev segDataBaseReg : Byte := 0
/-- `SEG_BLINK_SHIFT`. -/
abbrev segBlinkShift : Nat := 1
/-- `MAT_ROWS`. -/
abbrev matRows : Nat := 8
/-- `MAT_COLS`. -/
abbrev matCols : Nat := 8

/-- The open parameters of 00_scope.md section 4, under the spec's names. Durations are counted in microseconds. -/
structure Params where
  -- 4.1
  segCmdSystemSetup  : Nibble
  segSetOscOn        : Nibble
  segSetOscOff       : Nibble
  segCmdDisplaySetup : Nibble
  segSetDisplayOn    : Nibble
  segSetDisplayOff   : Nibble
  segCmdDimmingSet   : Nibble
  -- 4.2
  matCmdRowBase      : Byte
  matCmdDecodeMode   : Byte
  matCmdIntensity    : Byte
  matCmdScanLimit    : Byte
  matCmdShutdown     : Byte
  matCmdDisplayTest  : Byte
  matDataRun         : Byte
  matDataHold        : Byte
  matDataNoDecode    : Byte
  matDataScanAll     : Byte
  matDataTestOn      : Byte
  matDataTestOff     : Byte
  -- 4.3
  lcdRegDirection    : Byte
  lcdDirAllOutput    : Byte
  lcdRegLatch        : Byte
  lcdPinRs           : BitVec 3
  lcdPinEn           : BitVec 3
  lcdPinD0           : BitVec 3
  lcdPinD1           : BitVec 3
  lcdPinD2           : BitVec 3
  lcdPinD3           : BitVec 3
  lcdPinBacklight    : BitVec 3
  lcdWake1           : Byte
  lcdWake2           : Byte
  lcdCmdClearDisplay : Byte
  lcdCmdReturnHome   : Byte
  lcdCmdEntryMode    : Byte
  lcdFlagEntryLeft   : Byte
  lcdFlagEntryShiftDecrement : Byte
  lcdCmdDisplayControl : Byte
  lcdFlagDisplayOn   : Byte
  lcdFlagCursorOn    : Byte
  lcdFlagBlinkOff    : Byte
  lcdCmdFunctionSet  : Byte
  lcdFlag4Bit        : Byte
  lcdFlag1Line       : Byte
  lcdFlag2Line       : Byte
  tPulse             : Nat
  tSettle            : Nat
deriving DecidableEq, Repr, Inhabited

namespace Params

/-- The seven named expander pins (00_scope.md section 4.3). -/
def pins (p : Params) : List (BitVec 3) :=
  [p.lcdPinRs, p.lcdPinEn, p.lcdPinD0, p.lcdPinD1, p.lcdPinD2, p.lcdPinD3, p.lcdPinBacklight]

/-- The four data-line pins, `LCD_PIN_D[0]` first. -/
def dataPins (p : Params) : List (BitVec 3) :=
  [p.lcdPinD0, p.lcdPinD1, p.lcdPinD2, p.lcdPinD3]

/-- The unused pin: the number in [0,7] that no named pin takes (00_scope.md section 4.3). -/
def unusedPin (p : Params) : Option (BitVec 3) :=
  ([0, 1, 2, 3, 4, 5, 6, 7] : List (BitVec 3)).find? (fun q => !p.pins.contains q)

/-- The MAT commands that are no row command. -/
def matOtherCommands (p : Params) : List Byte :=
  [p.matCmdDecodeMode, p.matCmdIntensity, p.matCmdScanLimit, p.matCmdShutdown, p.matCmdDisplayTest]

/-- The two bits of a display-setup setting that hold the blink rate (30_encoding.md R56 c: "into bits 1–2"). -/
abbrev segBlinkBits : Nibble := 0b0110

/-- The constraints on the SEG parameters: those of 00_scope.md section 4.1, and that the display-off setting carries
blink rate 0, as 70_reset_and_hazards.md R190 says of it; the display-on setting does so by section 4.1. -/
abbrev SegValid (p : Params) : Prop :=
  p.segCmdSystemSetup ≠ segCmdDisplayData ∧ p.segCmdSystemSetup ≠ p.segCmdDisplaySetup ∧
  p.segCmdSystemSetup ≠ p.segCmdDimmingSet ∧ p.segSetOscOn ≠ p.segSetOscOff ∧
  (p.segSetDisplayOn = 1#4 ∨ p.segSetDisplayOn = 8#4) ∧ p.segSetDisplayOff &&& p.segSetDisplayOn = 0#4 ∧
  p.segSetDisplayOff &&& segBlinkBits = 0#4

/-- The constraints on the MAT parameters (00_scope.md section 4.2). -/
abbrev MatValid (p : Params) : Prop :=
  p.matCmdRowBase.toNat + 7 ≤ 255 ∧
  (∀ c ∈ p.matOtherCommands, c.toNat < p.matCmdRowBase.toNat ∨ p.matCmdRowBase.toNat + 7 < c.toNat) ∧
  p.matDataRun ≠ p.matDataHold ∧ p.matDataTestOn ≠ p.matDataTestOff

/-- The constraints on the LCD parameters (00_scope.md section 4.3). -/
abbrev LcdValid (p : Params) : Prop :=
  p.lcdRegDirection ≠ p.lcdRegLatch ∧ p.pins.Nodup ∧ 0 < p.tPulse

/-- The constraints of 00_scope.md section 4, all of them that bind a value inside the block. The bound on `T_SETTLE`
is a property of the device and binds nothing here. -/
abbrev Valid (p : Params) : Prop := p.SegValid ∧ p.MatValid ∧ p.LcdValid

/-- `LCD_INIT_DISPLAY_CONTROL` (00_scope.md section 4.3, derived constants). -/
def initDisplayControl (p : Params) : Byte :=
  p.lcdCmdDisplayControl ||| p.lcdFlagDisplayOn ||| p.lcdFlagCursorOn ||| p.lcdFlagBlinkOff

/-- `LCD_INIT_FUNCTION_SET`: the 1-line and the 2-line flag are both ORed in (30_encoding.md R60). -/
def initFunctionSet (p : Params) : Byte :=
  p.lcdCmdFunctionSet ||| p.lcdFlag4Bit ||| p.lcdFlag1Line ||| p.lcdFlag2Line

/-- `LCD_INIT_ENTRY_MODE`. -/
def initEntryMode (p : Params) : Byte :=
  p.lcdCmdEntryMode ||| p.lcdFlagEntryLeft ||| p.lcdFlagEntryShiftDecrement

end Params

/-- The default values of 00_scope.md section 4, which the spec itself marks as general knowledge and not from its
source. PRESUMED, log entry 19: they instantiate tests, and no statement rests on them. -/
def defaultParams : Params where
  segCmdSystemSetup := 0x2
  segSetOscOn := 0x1
  segSetOscOff := 0x0
  segCmdDisplaySetup := 0x8
  segSetDisplayOn := 0x1
  segSetDisplayOff := 0x0
  segCmdDimmingSet := 0xE
  matCmdRowBase := 0x01
  matCmdDecodeMode := 0x09
  matCmdIntensity := 0x0A
  matCmdScanLimit := 0x0B
  matCmdShutdown := 0x0C
  matCmdDisplayTest := 0x0F
  matDataRun := 0x01
  matDataHold := 0x00
  matDataNoDecode := 0x00
  matDataScanAll := 0x07
  matDataTestOn := 0x01
  matDataTestOff := 0x00
  lcdRegDirection := 0x00
  lcdDirAllOutput := 0x00
  lcdRegLatch := 0x09
  lcdPinRs := 1
  lcdPinEn := 2
  lcdPinD0 := 3
  lcdPinD1 := 4
  lcdPinD2 := 5
  lcdPinD3 := 6
  lcdPinBacklight := 7
  lcdWake1 := 0x33
  lcdWake2 := 0x32
  lcdCmdClearDisplay := 0x01
  lcdCmdReturnHome := 0x02
  lcdCmdEntryMode := 0x04
  lcdFlagEntryLeft := 0x02
  lcdFlagEntryShiftDecrement := 0x00
  lcdCmdDisplayControl := 0x08
  lcdFlagDisplayOn := 0x04
  lcdFlagCursorOn := 0x02
  lcdFlagBlinkOff := 0x00
  lcdCmdFunctionSet := 0x20
  lcdFlag4Bit := 0x00
  lcdFlag1Line := 0x00
  lcdFlag2Line := 0x08
  tPulse := 1
  tSettle := 3000

/-- The defaults meet the constraints. -/
theorem defaultParams_valid : defaultParams.Valid := by decide

/-- An implementation's own choice of the open parameters: a constant without a body, of which nothing can be proved.
DESIGN CHOICE, safe: log entry 1. -/
opaque Config.chosenParams : Params

/-- The parameters the machine runs with: the implementation's choice, which the spec constrains (00_scope.md section
4). A choice that breaks the constraints is no implementation; the defaults stand in for it so that the constraints
always hold. Nothing but `Config.params_valid` can be proved of the value. -/
def Config.params : Params :=
  if Config.chosenParams.Valid then Config.chosenParams else defaultParams

/-- The machine's parameters meet the constraints of 00_scope.md section 4. -/
theorem Config.params_valid : Config.params.Valid := by
  unfold Config.params
  split
  · assumption
  · exact defaultParams_valid

end Sys2Proof
end

