-- ==== Sys2Proof/Syntax.lean ====
section
/-! DEFINITION. The instructions: one constructor per row of spec/opcode_table.json. The first 21 are the operations a
request names (30_encoding.md R51, R52); the last 14 are the emitted encodings, the transactions the units send
(30_encoding.md sections 4 to 6). An operand is exactly as wide as the field that carries it, so that an `int` operand
may be out of its legal range and a `u8`, `u3` or `bool` operand may not. -/

namespace Sys2Proof

inductive Instr where
  -- SEG requests, 40_segment.md
  | segClear
  | segRefresh
  | segSetEnabled (enabled : Bool)
  | segSetBlinkRate (rate : Word)
  | segSetBrightness (level : Word)
  | segExecute (command setting : Word)
  | segWriteBuffer (index value : Word)
  -- MAT requests, 41_matrix.md
  | matClear
  | matRefresh
  | matSetEnabled (enabled : Bool)
  | matSetTestMode (enabled : Bool)
  | matSetBrightness (level : Word)
  | matSetPixel (x y : Word) (enabled : Bool)
  | matGetPixel (x y : Word)
  | matRefreshRow (row : Word)
  -- LCD requests, 42_lcd.md
  | lcdInit
  | lcdWrite8 (byte : Byte) (isCharacterMode : Bool)
  | lcdMessage (text : List Byte)
  | lcdSetPin (pin : BitVec 3) (level : Bool)
  | lcdPulseEnable
  | lcdCommand (byte : Byte)
  -- emitted by SEG, 30_encoding.md R55, R56
  | segCmdbyte (command setting : Nibble)
  | segDisplayData
  | segSystemSetup (on : Bool)
  | segDisplaySetup (rate : BitVec 2) (on : Bool)
  | segDimmingSet (level : Nibble)
  -- emitted by MAT, 30_encoding.md R57 and 20_memory.md R37 (b)
  | matRow (row : BitVec 3)
  | matShutdown (run : Bool)
  | matDecodeMode
  | matScanLimit
  | matIntensity (level : Byte)
  | matDisplayTest (on : Bool)
  -- emitted by LCD, 30_encoding.md R59, R60 and 42_lcd.md R115
  | lcdLatch
  | lcdDirection
  | lcdLogicalCommand (byte : Byte)
deriving DecidableEq, Repr

end Sys2Proof
end

