-- ==== Sys2Proof/WellFormed.lean ====
section
/-! DEFINITION. Which instructions are forms the spec gives. A request of any operands is well-formed: an operand out of
its range is a well-formed request that the operation rejects (30_encoding.md R61). Two emitted encodings have bit
patterns the spec never emits. -/

namespace Sys2Proof

/-- The forms the spec gives. A display-setup byte with the display off carries blink rate 0 (30_encoding.md R56 c);
the data byte of an intensity frame is a level in [0,15] (R57). -/
def Instr.WellFormed : Instr → Bool
  | .segClear => true
  | .segRefresh => true
  | .segSetEnabled _ => true
  | .segSetBlinkRate _ => true
  | .segSetBrightness _ => true
  | .segExecute _ _ => true
  | .segWriteBuffer _ _ => true
  | .matClear => true
  | .matRefresh => true
  | .matSetEnabled _ => true
  | .matSetTestMode _ => true
  | .matSetBrightness _ => true
  | .matSetPixel _ _ _ => true
  | .matGetPixel _ _ => true
  | .matRefreshRow _ => true
  | .lcdInit => true
  | .lcdWrite8 _ _ => true
  | .lcdMessage _ => true
  | .lcdSetPin _ _ => true
  | .lcdPulseEnable => true
  | .lcdCommand _ => true
  | .segCmdbyte _ _ => true
  | .segDisplayData => true
  | .segSystemSetup _ => true
  | .segDisplaySetup rate on => on || rate == 0#2
  | .segDimmingSet _ => true
  | .matRow _ => true
  | .matShutdown _ => true
  | .matDecodeMode => true
  | .matScanLimit => true
  | .matIntensity level => decide (level.toNat < 16)
  | .matDisplayTest _ => true
  | .lcdLatch => true
  | .lcdDirection => true
  | .lcdLogicalCommand _ => true

/-- The operations a host names in a request; the other constructors are encodings a unit emits
(30_encoding.md, head and R51). -/
def Instr.isRequest : Instr → Bool
  | .segClear => true
  | .segRefresh => true
  | .segSetEnabled _ => true
  | .segSetBlinkRate _ => true
  | .segSetBrightness _ => true
  | .segExecute _ _ => true
  | .segWriteBuffer _ _ => true
  | .matClear => true
  | .matRefresh => true
  | .matSetEnabled _ => true
  | .matSetTestMode _ => true
  | .matSetBrightness _ => true
  | .matSetPixel _ _ _ => true
  | .matGetPixel _ _ => true
  | .matRefreshRow _ => true
  | .lcdInit => true
  | .lcdWrite8 _ _ => true
  | .lcdMessage _ => true
  | .lcdSetPin _ _ => true
  | .lcdPulseEnable => true
  | .lcdCommand _ => true
  | .segCmdbyte _ _ => false
  | .segDisplayData => false
  | .segSystemSetup _ => false
  | .segDisplaySetup _ _ => false
  | .segDimmingSet _ => false
  | .matRow _ => false
  | .matShutdown _ => false
  | .matDecodeMode => false
  | .matScanLimit => false
  | .matIntensity _ => false
  | .matDisplayTest _ => false
  | .lcdLatch => false
  | .lcdDirection => false
  | .lcdLogicalCommand _ => false

/-- The unit that carries an instruction out (30_encoding.md R50, opcode[7:4]; for an emitted encoding, the unit that
emits it). -/
def Instr.unit : Instr → UnitId
  | .segClear => .seg
  | .segRefresh => .seg
  | .segSetEnabled _ => .seg
  | .segSetBlinkRate _ => .seg
  | .segSetBrightness _ => .seg
  | .segExecute _ _ => .seg
  | .segWriteBuffer _ _ => .seg
  | .matClear => .mat
  | .matRefresh => .mat
  | .matSetEnabled _ => .mat
  | .matSetTestMode _ => .mat
  | .matSetBrightness _ => .mat
  | .matSetPixel _ _ _ => .mat
  | .matGetPixel _ _ => .mat
  | .matRefreshRow _ => .mat
  | .lcdInit => .lcd
  | .lcdWrite8 _ _ => .lcd
  | .lcdMessage _ => .lcd
  | .lcdSetPin _ _ => .lcd
  | .lcdPulseEnable => .lcd
  | .lcdCommand _ => .lcd
  | .segCmdbyte _ _ => .seg
  | .segDisplayData => .seg
  | .segSystemSetup _ => .seg
  | .segDisplaySetup _ _ => .seg
  | .segDimmingSet _ => .seg
  | .matRow _ => .mat
  | .matShutdown _ => .mat
  | .matDecodeMode => .mat
  | .matScanLimit => .mat
  | .matIntensity _ => .mat
  | .matDisplayTest _ => .mat
  | .lcdLatch => .lcd
  | .lcdDirection => .lcd
  | .lcdLogicalCommand _ => .lcd

end Sys2Proof
end

