-- ==== Sys2Proof/Decode.lean ====
section
/-! DEFINITION. The two kinds of encoding, which must not be confused (30_encoding.md, head).
The REQUEST encoding names an operation and its operands: `decode` reads a request, `encode` writes one.
The EMITTED encodings are the bytes the units send: `emittedEvent` writes them. The block never reads a bus
(20_memory.md R36), so it has no decoder of its own for them; `readEvent` is the observer's reading of an event. -/

namespace Sys2Proof

/-! ### Bit fields the encodings use -/

/-- `cmdbyte(command, setting) = (command << 4) | setting` (30_encoding.md R55). -/
def cmdByte (command setting : Nibble) : Byte :=
  (command.setWidth 8 <<< 4) ||| setting.setWidth 8

/-- `v[7:4]` of a byte (00_scope.md section 6.1). -/
def hiNibble (v : Byte) : Nibble := v.extractLsb' 4 4

/-- `v[3:0]` of a byte. -/
def loNibble (v : Byte) : Nibble := v.extractLsb' 0 4

/-- A `u8` operand: bits 7:0 of the field (30_encoding.md R52). -/
def fieldU8 (v : Word) : Byte := v.setWidth 8

/-- A `u3` operand: bits 2:0 of the field (R52). -/
def fieldU3 (v : Word) : BitVec 3 := v.setWidth 3

/-- The unit that `opcode[7:4]` names, if it names one (30_encoding.md R50). -/
def unitOfOpcode (opcode : Byte) : Option UnitId :=
  if hiNibble opcode = 1#4 then some .seg
  else if hiNibble opcode = 2#4 then some .mat
  else if hiNibble opcode = 3#4 then some .lcd
  else none

/-! ### Requests -/

/-- What the request decoder answers: an operation, or the rejection of a reserved opcode by its number (R61). -/
inductive Decoded where
  | operation (i : Instr)
  | reserved (opcode : Byte)
deriving DecidableEq, Repr

/-- The operation read, if the opcode is not reserved. -/
def Decoded.instr? (d : Decoded) : Option Instr :=
  match d with
  | .operation i => some i
  | .reserved _ => none

/-- The request decoder, total on every request (30_encoding.md R51, R52, R61): fields an operation does not use are
ignored. -/
def decode (r : Request) : Decoded :=
  match r.opcode.toNat with
  | 0x10 => .operation .segClear
  | 0x11 => .operation .segRefresh
  | 0x12 => .operation (.segSetEnabled r.flag)
  | 0x13 => .operation (.segSetBlinkRate r.a)
  | 0x14 => .operation (.segSetBrightness r.a)
  | 0x15 => .operation (.segExecute r.a r.b)
  | 0x16 => .operation (.segWriteBuffer r.a r.b)
  | 0x20 => .operation .matClear
  | 0x21 => .operation .matRefresh
  | 0x22 => .operation (.matSetEnabled r.flag)
  | 0x23 => .operation (.matSetTestMode r.flag)
  | 0x24 => .operation (.matSetBrightness r.a)
  | 0x25 => .operation (.matSetPixel r.a r.b r.flag)
  | 0x26 => .operation (.matGetPixel r.a r.b)
  | 0x27 => .operation (.matRefreshRow r.a)
  | 0x30 => .operation .lcdInit
  | 0x31 => .operation (.lcdWrite8 (fieldU8 r.a) r.flag)
  | 0x32 => .operation (.lcdMessage r.text)
  | 0x33 => .operation (.lcdSetPin (fieldU3 r.a) r.flag)
  | 0x34 => .operation .lcdPulseEnable
  | 0x35 => .operation (.lcdCommand (fieldU8 r.a))
  | _ => .reserved r.opcode

/-- A request with the given opcode and operands; unused fields are 0. -/
def mkRequest (opcode : Byte) (a : Word := 0) (b : Word := 0) (flag : Bool := false) (text : List Byte := []) :
    Request :=
  { opcode := opcode, a := a, b := b, flag := flag, text := text }

/-- The request that names an operation (R51, R52); an emitted encoding has none. -/
def encode (i : Instr) : Option Request :=
  match i with
  | .segClear => some (mkRequest 0x10)
  | .segRefresh => some (mkRequest 0x11)
  | .segSetEnabled e => some (mkRequest 0x12 (flag := e))
  | .segSetBlinkRate v => some (mkRequest 0x13 (a := v))
  | .segSetBrightness v => some (mkRequest 0x14 (a := v))
  | .segExecute c v => some (mkRequest 0x15 (a := c) (b := v))
  | .segWriteBuffer k v => some (mkRequest 0x16 (a := k) (b := v))
  | .matClear => some (mkRequest 0x20)
  | .matRefresh => some (mkRequest 0x21)
  | .matSetEnabled e => some (mkRequest 0x22 (flag := e))
  | .matSetTestMode e => some (mkRequest 0x23 (flag := e))
  | .matSetBrightness v => some (mkRequest 0x24 (a := v))
  | .matSetPixel x y e => some (mkRequest 0x25 (a := x) (b := y) (flag := e))
  | .matGetPixel x y => some (mkRequest 0x26 (a := x) (b := y))
  | .matRefreshRow r => some (mkRequest 0x27 (a := r))
  | .lcdInit => some (mkRequest 0x30)
  | .lcdWrite8 v m => some (mkRequest 0x31 (a := v.setWidth 32) (flag := m))
  | .lcdMessage t => some (mkRequest 0x32 (text := t))
  | .lcdSetPin q l => some (mkRequest 0x33 (a := q.setWidth 32) (flag := l))
  | .lcdPulseEnable => some (mkRequest 0x34)
  | .lcdCommand v => some (mkRequest 0x35 (a := v.setWidth 32))
  | .segCmdbyte _ _ => none
  | .segDisplayData => none
  | .segSystemSetup _ => none
  | .segDisplaySetup _ _ => none
  | .segDimmingSet _ => none
  | .matRow _ => none
  | .matShutdown _ => none
  | .matDecodeMode => none
  | .matScanLimit => none
  | .matIntensity _ => none
  | .matDisplayTest _ => none
  | .lcdLatch => none
  | .lcdDirection => none
  | .lcdLogicalCommand _ => none

/-- The request whose bits are `w`, in whole bytes: the opcode in bits 7..0, `a` in 39..8, `b` in 71..40, `flag` in bit
72 (bits 79..73 unused), then one byte of `text` after another while `nbits` reaches that far. The spec gives a request
as a record and no layout; DESIGN CHOICE, safe: log entry 6. -/
def requestOfBits (nbits w : Nat) : Request where
  opcode := BitVec.ofNat 8 w
  a := BitVec.ofNat 32 (w / 2 ^ 8)
  b := BitVec.ofNat 32 (w / 2 ^ 40)
  flag := (w / 2 ^ 72) % 2 == 1
  text := (List.range ((nbits - 80) / 8)).map (fun k => BitVec.ofNat 8 (w / 2 ^ (80 + 8 * k)))

/-- The instruction the request decoder reads from the bits `w`. -/
def decodeTableWord (nbits w : Nat) : Option Instr :=
  (decode (requestOfBits nbits w)).instr?

/-! ### Emitted encodings -/

/-- `rowcmd(r) = MAT_CMD_ROW_BASE + r` (30_encoding.md R57); under the parameters' constraint it does not wrap. -/
def rowCommand (p : Params) (row : BitVec 3) : Byte := p.matCmdRowBase + row.setWidth 8

/-- The setting of a display-setup byte: `(rate << 1) | on-or-off setting` (30_encoding.md R56 c). -/
def displaySetting (p : Params) (rate : BitVec 2) (on : Bool) : Nibble :=
  (rate.setWidth 4 <<< segBlinkShift) ||| (if on then p.segSetDisplayOn else p.segSetDisplayOff)

/-- The transaction of an emitted encoding; `data` is the byte of block state it carries, which only a row frame (its
row byte) and a latch write (the latch) do. A request is no transaction, and a logical command is 15 of them. -/
def emittedEvent (p : Params) (i : Instr) (data : Byte) : Option Event :=
  match i with
  | .segCmdbyte c v => some (.busStrobe (cmdByte c v))
  | .segDisplayData => some (.busStrobe (cmdByte segCmdDisplayData segSetDisplayData))
  | .segSystemSetup on => some (.busStrobe (cmdByte p.segCmdSystemSetup (if on then p.segSetOscOn else p.segSetOscOff)))
  | .segDisplaySetup rate on => some (.busStrobe (cmdByte p.segCmdDisplaySetup (displaySetting p rate on)))
  | .segDimmingSet level => some (.busStrobe (cmdByte p.segCmdDimmingSet level))
  | .matRow row => some (.busFrame (rowCommand p row) data)
  | .matShutdown run => some (.busFrame p.matCmdShutdown (if run then p.matDataRun else p.matDataHold))
  | .matDecodeMode => some (.busFrame p.matCmdDecodeMode p.matDataNoDecode)
  | .matScanLimit => some (.busFrame p.matCmdScanLimit p.matDataScanAll)
  | .matIntensity level => some (.busFrame p.matCmdIntensity level)
  | .matDisplayTest on => some (.busFrame p.matCmdDisplayTest (if on then p.matDataTestOn else p.matDataTestOff))
  | .lcdLatch => some (.busReg p.lcdRegLatch data)
  | .lcdDirection => some (.busReg p.lcdRegDirection p.lcdDirAllOutput)
  | .lcdLogicalCommand _ => none
  | .segClear => none
  | .segRefresh => none
  | .segSetEnabled _ => none
  | .segSetBlinkRate _ => none
  | .segSetBrightness _ => none
  | .segExecute _ _ => none
  | .segWriteBuffer _ _ => none
  | .matClear => none
  | .matRefresh => none
  | .matSetEnabled _ => none
  | .matSetTestMode _ => none
  | .matSetBrightness _ => none
  | .matSetPixel _ _ _ => none
  | .matGetPixel _ _ => none
  | .matRefreshRow _ => none
  | .lcdInit => none
  | .lcdWrite8 _ _ => none
  | .lcdMessage _ => none
  | .lcdSetPin _ _ => none
  | .lcdPulseEnable => none
  | .lcdCommand _ => none

/-- A strobe address as a SEG command (30_encoding.md R55, R56). Where two open parameters coincide, which the spec
allows for some, the first row that fits is named. DESIGN CHOICE, safe: log entry 24. -/
def readStrobe (p : Params) (addr : Byte) : Instr :=
  let c := hiNibble addr
  let v := loNibble addr
  if addr = cmdByte segCmdDisplayData segSetDisplayData then .segDisplayData
  else if c = p.segCmdSystemSetup ∧ v = p.segSetOscOn then .segSystemSetup true
  else if c = p.segCmdSystemSetup ∧ v = p.segSetOscOff then .segSystemSetup false
  else if c = p.segCmdDisplaySetup ∧ v = displaySetting p 0 true then .segDisplaySetup 0 true
  else if c = p.segCmdDisplaySetup ∧ v = displaySetting p 1 true then .segDisplaySetup 1 true
  else if c = p.segCmdDisplaySetup ∧ v = displaySetting p 2 true then .segDisplaySetup 2 true
  else if c = p.segCmdDisplaySetup ∧ v = displaySetting p 3 true then .segDisplaySetup 3 true
  else if c = p.segCmdDisplaySetup ∧ v = displaySetting p 0 false then .segDisplaySetup 0 false
  else if c = p.segCmdDimmingSet then .segDimmingSet v
  else .segCmdbyte c v

/-- A MAT frame as one of the thirteen commands of 20_memory.md R37 (b); any other frame is none of them. -/
def readFrame (p : Params) (cmd data : Byte) : Option Instr :=
  if p.matCmdRowBase.toNat ≤ cmd.toNat ∧ cmd.toNat ≤ p.matCmdRowBase.toNat + 7 then
    some (.matRow ((cmd - p.matCmdRowBase).setWidth 3))
  else if cmd = p.matCmdShutdown ∧ data = p.matDataRun then some (.matShutdown true)
  else if cmd = p.matCmdShutdown ∧ data = p.matDataHold then some (.matShutdown false)
  else if cmd = p.matCmdDecodeMode ∧ data = p.matDataNoDecode then some .matDecodeMode
  else if cmd = p.matCmdScanLimit ∧ data = p.matDataScanAll then some .matScanLimit
  else if cmd = p.matCmdIntensity ∧ data.toNat < 16 then some (.matIntensity data)
  else if cmd = p.matCmdDisplayTest ∧ data = p.matDataTestOn then some (.matDisplayTest true)
  else if cmd = p.matCmdDisplayTest ∧ data = p.matDataTestOff then some (.matDisplayTest false)
  else none

/-- An expander write as one of the two of 20_memory.md R37 (c). -/
def readReg (p : Params) (addr value : Byte) : Option Instr :=
  if addr = p.lcdRegLatch then some .lcdLatch
  else if addr = p.lcdRegDirection ∧ value = p.lcdDirAllOutput then some .lcdDirection
  else none

/-- The row of the opcode table an event is; a bulk write and a delay are no rows. -/
def readEvent (p : Params) (e : Event) : Option Instr :=
  match e with
  | .busStrobe addr => some (readStrobe p addr)
  | .busBulk _ _ _ => none
  | .busFrame cmd data => readFrame p cmd data
  | .busReg addr value => readReg p addr value
  | .delay _ => none

end Sys2Proof
end

