-- ==== Sys2Proof/Machine/State.lean ====
section
/-! DEFINITION. The state of the block: every piece of state 10_state.md gives it, the observations 20_memory.md R30 and
00_scope.md R7 name (traces, responses), and the environment's inputs (requests and answers), all plain data. -/

namespace Sys2Proof.Machine

/-- The sequencer position of a unit (10_state.md R20): `idle`, or the operation in progress with its operands and the
index of the statement of its body whose call is outstanding. -/
inductive Seq where
  | idle
  | busy (operation : Instr) (index : Nat)
deriving DecidableEq, Repr

/-- The lifecycle of SEG and MAT (10_state.md R15). -/
inductive Life where
  | unknown
  | enabled
  | disabled
deriving DecidableEq, Repr

/-- The lifecycle of LCD (10_state.md R16). -/
inductive LcdLife where
  | unknown
  | ready
deriving DecidableEq, Repr

/-- What the three units have alike: the sequencer (10_state.md R20), the result registers (R17), the output trace
(20_memory.md R30), the responses given (00_scope.md R7), and the answers the environment will give to the unit's next
calls, first answer first (the model's own input, log entry 2). -/
structure Port where
  seq       : Seq
  status    : Status
  value     : Bool
  trace     : List Event
  responses : List Response
  answers   : List Answer
deriving DecidableEq, Repr

/-- `SEG_FB` and `SEG_LIFE` (10_state.md R10, R15). -/
structure SegData where
  fb   : Vector Byte 16
  life : Life
deriving DecidableEq, Repr

/-- `MAT_FB` and `MAT_LIFE` (10_state.md R11, R15). -/
structure MatData where
  fb   : Vector Byte 8
  life : Life
deriving DecidableEq, Repr

/-- `LCD_LATCH`, `LCD_LIFE` and the ghost `LCD_DEV_LATCH` (10_state.md R12, R16, R19); `dev = none` is the spec's
`unknown`. There is no field for `LCD_SYNC`, which 00_scope.md section 6.2 names among the variables of 10_state.md and
which no table and no rule has. DESIGN CHOICE, safe: log entry 26. -/
structure LcdData where
  latch : Byte
  life  : LcdLife
  dev   : Option Byte
deriving DecidableEq, Repr

/-- One unit: its data registers and its port. -/
structure Driver (D : Type) where
  data : D
  port : Port
deriving DecidableEq, Repr

/-- The whole block with its environment. The three units share nothing (00_scope.md R6). `decoderResponses` are the
answers to opcodes that name no unit (30_encoding.md R61); `requests` are the requests the host has still to send, in
order (the model's own input, log entry 2). -/
structure State where
  seg : Driver SegData
  mat : Driver MatData
  lcd : Driver LcdData
  decoderResponses : List Response
  requests : List Request
deriving DecidableEq, Repr

/-- The one way the machine stops with a fault. -/
inductive Fault where
  /-- Raised by `step` alone, when a unit's sequencer position is none its operations have (an operation of another
  unit, or an index where no call stands). No run reaches such a position (log entry 17). Safe: the machine stops
  where the hardware has no such state. -/
  | sequencerPosition
deriving DecidableEq, Repr

/-- The ways a request has no meaning. -/
inductive Refusal where
  /-- Raised by no arm of this model: every instruction has its meaning. Safe. -/
  | notModelled (mnemonic : String)
  /-- Raised by every instruction handed to a unit that is not idle (00_scope.md R5, 93_implementation_defined.md U7:
  "`refuse`: the model has no such step"). `step` never does so: it leaves the request with the host. Safe. -/
  | unitBusy
  /-- Raised by MAT.setPixel and MAT.getPixel with `x` or `y` outside [0,8) (60_exceptions.md R150,
  93_implementation_defined.md U1: "`refuse`. Never a result, never a status."). Safe. -/
  | outsidePrecondition
deriving DecidableEq, Repr

/-- A port right after reset (10_state.md R23): idle, `OK`, 0, an empty trace; no response given and, as the model's
choice, no answer foreseen (log entries 2 and 13). -/
def Port.reset : Port :=
  { seq := .idle, status := .ok, value := false, trace := [], responses := [], answers := [] }

/-- The block right after reset (10_state.md R23), with no request sent yet. -/
def State.reset : State where
  seg := { data := { fb := Vector.replicate 16 0, life := .unknown }, port := Port.reset }
  mat := { data := { fb := Vector.replicate 8 0, life := .unknown }, port := Port.reset }
  lcd := { data := { latch := 0, life := .unknown, dev := none }, port := Port.reset }
  decoderResponses := []
  requests := []

end Sys2Proof.Machine
end

