-- ==== Sys2Proof/Machine/Flags.lean ====
section
/-! DEFINITION. The result registers, which stand in place of flags (10_state.md R17): the status codes and the status a
failed call raises. The block has no condition codes. -/

namespace Sys2Proof.Machine

/-- The 4-bit code of a status (30_encoding.md R53). -/
def statusCode (st : Status) : BitVec 4 :=
  match st with
  | .ok => 0
  | .invalidArgument => 1
  | .transportFailure => 2
  | .interrupted => 3
  | .unknownOperation => 4

/-- The exception a call raises when its answer is the bad one: a transaction `TransportFailure` (60_exceptions.md
R142), a delay `Interrupted` (R143). -/
def failStatus (e : Event) : Status :=
  match e with
  | .busStrobe _ => .transportFailure
  | .busBulk _ _ _ => .transportFailure
  | .busFrame _ _ => .transportFailure
  | .busReg _ _ => .transportFailure
  | .delay _ => .interrupted

/-- Whether an event is a bus transaction (00_scope.md section 7, "transaction"); the others are delays. -/
def isTransaction (e : Event) : Bool :=
  match e with
  | .busStrobe _ => true
  | .busBulk _ _ _ => true
  | .busFrame _ _ => true
  | .busReg _ _ => true
  | .delay _ => false

end Sys2Proof.Machine
end

