-- ==== Sys2Proof/Machine/Operands.lean ====
section
/-! DEFINITION. Operand forms: the signed range checks (30_encoding.md R64), the framebuffer, row, pixel, buffer and pin
operands (20_memory.md R47), and the slices and masks they use. -/

namespace Sys2Proof.Machine

/-- The signed check `lo <= v <= hi` (30_encoding.md R64; 00_scope.md section 6.1: comparisons are signed). -/
def inRange (lo hi : Int) (v : Word) : Bool := decide (lo ≤ v.toInt) && decide (v.toInt ≤ hi)

/-- A legal blink rate as the two bits it is placed in (30_encoding.md R56). -/
def rateField (v : Word) : BitVec 2 := v.setWidth 2

/-- A legal command, setting or level as a nibble. -/
def nibbleField (v : Word) : Nibble := v.setWidth 4

/-- A legal byte value as a byte. -/
def byteField (v : Word) : Byte := v.setWidth 8

/-- A legal row index as the three bits that name a row. -/
def rowField (v : Word) : BitVec 3 := v.setWidth 3

/-- Row `row` of `MAT_FB`. -/
def readRow (fb : Vector Byte 8) (row : BitVec 3) : Byte := fb[row.toNat]

/-- `MAT_FB[row] <- v`. -/
def writeRow (fb : Vector Byte 8) (row : BitVec 3) (v : Byte) : Vector Byte 8 := fb.set row.toNat v

/-- `SEG_FB[index] <- v`. -/
def writeEntry (fb : Vector Byte 16) (index : Nibble) (v : Byte) : Vector Byte 16 := fb.set index.toNat v

/-- `pixmask(x) = 1 << (7 - x)` (30_encoding.md R58). -/
def pixMask (x : BitVec 3) : Byte := 1#8 <<< (7 - x.toNat)

/-- The precondition `0 <= x < 8` of a pixel coordinate, which the block does not check (41_matrix.md R96). -/
def pixelInGrid (x y : Word) : Bool := inRange 0 7 x && inRange 0 7 y

/-- Set or clear the masked bits by OR or AND-NOT (30_encoding.md R58, 42_lcd.md R110). -/
def withMask (v mask : Byte) (level : Bool) : Byte := if level then v ||| mask else v &&& ~~~mask

/-- Set pixel `(x, y)` of a framebuffer (41_matrix.md R96). -/
def writePixel (fb : Vector Byte 8) (x y : BitVec 3) (enabled : Bool) : Vector Byte 8 :=
  writeRow fb y (withMask (readRow fb y) (pixMask x) enabled)

/-- Test pixel `(x, y)` of a framebuffer (41_matrix.md R97). -/
def readPixel (fb : Vector Byte 8) (x y : BitVec 3) : Bool := (readRow fb y &&& pixMask x) != 0#8

/-- `1 << pin` (42_lcd.md R110). -/
def pinMask (pin : BitVec 3) : Byte := 1#8 <<< pin.toNat

/-- The latch byte with pin `pin` at `level` (42_lcd.md R110). -/
def withPin (latch : Byte) (pin : BitVec 3) (level : Bool) : Byte := withMask latch (pinMask pin) level

/-- The level of pin `pin` in a latch byte (10_state.md R12). -/
def pinLevel (latch : Byte) (pin : BitVec 3) : Bool := latch.getLsbD pin.toNat

end Sys2Proof.Machine
end

