-- ==== Sys2Proof/Machine/Ops.lean ====
section
/-! DEFINITION. The sequencer (10_state.md R20) and the operations every unit shares: the statements of the spec's
pseudocode (00_scope.md section 6.3), running them against the environment's answers, responding, taking an exception
(60_exceptions.md R140 to R149), launching an operation and going on with one whose call was outstanding. -/

namespace Sys2Proof.Machine

/-- One statement of an operation's pseudocode (00_scope.md section 6.3) on a unit with data registers `D`. -/
inductive Stmt (D : Type) where
  /-- Assignments to the unit's registers. -/
  | assign (f : D → D)
  /-- `if <out of range>: raise InvalidArgument`. -/
  | check (ok : Bool)
  /-- `return v`. -/
  | ret (value : D → Bool)
  /-- A primitive: the event it appends and what its answer does to the registers. -/
  | call (event : D → Event) (answered : Answer → D → D)

/-- A primitive whose answer changes no register. -/
def plainCall {D : Type} (event : D → Event) : Stmt D := .call event (fun _ d => d)

/-- An operation's pseudocode, and what `TransportFailure` or `Interrupted` inside it does to the unit's lifecycle
(60_exceptions.md R148). -/
structure Program (D : Type) where
  body : List (Stmt D)
  onException : D → D

/-- Where a run of statements stops. -/
inductive Stop where
  /-- Fell off the end, or `return v`. -/
  | returned (value : Bool)
  /-- An exception was raised. -/
  | raised (status : Status)
  /-- The call of statement `index` has not been answered (20_memory.md R35). -/
  | waiting (index : Nat)
deriving DecidableEq, Repr

/-- What a run of statements leaves: the registers, the events it appended, the answers not yet taken, the stop. -/
structure Progress (D : Type) where
  data    : D
  events  : List Event
  answers : List Answer
  stop    : Stop

/-- Put an event before those of a run. -/
def Progress.emit {D : Type} (g : Progress D) (e : Event) : Progress D := { g with events := e :: g.events }

/-- Execute statements in the order written, the first of them having index `k`, on registers `d`, taking the answers
`as` one at a time (10_state.md R20, 20_memory.md R30, R35, R42; 60_exceptions.md R142, R143, R149). An event is
appended before its answer is known; the first bad answer ends the run; with no answer left the run waits. -/
def run {D : Type} (body : List (Stmt D)) (k : Nat) (d : D) (as : List Answer) : Progress D :=
  match body with
  | [] => { data := d, events := [], answers := as, stop := .returned false }
  | .assign f :: rest => run rest (k + 1) (f d) as
  | .check true :: rest => run rest (k + 1) d as
  | .check false :: _ => { data := d, events := [], answers := as, stop := .raised .invalidArgument }
  | .ret v :: _ => { data := d, events := [], answers := as, stop := .returned (v d) }
  | .call ev answered :: rest =>
    match as with
    | [] => { data := d, events := [ev d], answers := [], stop := .waiting k }
    | .complete :: as' => (run rest (k + 1) (answered .complete d) as').emit (ev d)
    | .fail :: as' =>
      { data := answered .fail d, events := [ev d], answers := as', stop := .raised (failStatus (ev d)) }

/-- Go on from an outstanding call, the first of the statements given, which has index `k`: take its answer, then run
the rest. `none` if the first statement is no call. -/
def goOn {D : Type} (body : List (Stmt D)) (k : Nat) (d : D) (as : List Answer) : Option (Progress D) :=
  match body with
  | .call ev answered :: rest =>
    match as with
    | [] => some { data := d, events := [], answers := [], stop := .waiting k }
    | .complete :: as' => some (run rest (k + 1) (answered .complete d) as')
    | .fail :: as' =>
      some { data := answered .fail d, events := [], answers := as', stop := .raised (failStatus (ev d)) }
  | .assign _ :: _ => none
  | .check _ :: _ => none
  | .ret _ :: _ => none
  | [] => none

/-! ### What an operation leaves in its unit -/

/-- The registers, trace and answers after a run. -/
def Driver.advance {D : Type} (u : Driver D) (g : Progress D) : Driver D :=
  { data := g.data, port := { u.port with trace := u.port.trace ++ g.events, answers := g.answers } }

/-- Leave the unit in the middle of `op`, waiting for the answer to the call of statement `k`. -/
def Driver.suspend {D : Type} (u : Driver D) (op : Instr) (k : Nat) : Driver D :=
  { u with port := { u.port with seq := .busy op k } }

/-- End an operation with a response (10_state.md R17, R20; 30_encoding.md R54): the result registers are overwritten,
the response is delivered and the sequencer is idle. -/
def Driver.respond {D : Type} (u : Driver D) (st : Status) (v : Bool) : Driver D :=
  { u with port := { u.port with seq := .idle, status := st, value := v, responses := u.port.responses ++ [⟨st, v⟩] } }

/-- What an exception does to the registers beyond what the statements did (60_exceptions.md R141, R146, R148): only
`TransportFailure` and `Interrupted` touch the lifecycle. -/
def afterException {D : Type} (onException : D → D) (st : Status) (d : D) : D :=
  match st with
  | .ok => d
  | .invalidArgument => d
  | .transportFailure => onException d
  | .interrupted => onException d
  | .unknownOperation => d

/-- TAKE AN EXCEPTION (60_exceptions.md R140, R146, R148): the operation ends at once with the exception's status and
value 0, the unit is idle again, and nothing is saved. There is no return from an exception, since nothing is entered
(R154): the unit accepts any request next. -/
def Driver.takeException {D : Type} (u : Driver D) (onException : D → D) (st : Status) : Driver D :=
  ({ u with data := afterException onException st u.data } : Driver D).respond st false

/-- Return from an operation that met no exception: `OK` and the value (00_scope.md section 6.3, `return`). -/
def Driver.returnValue {D : Type} (u : Driver D) (v : Bool) : Driver D := u.respond .ok v

/-- The unit after a run of statements of `op`. -/
def Driver.settle {D : Type} (u : Driver D) (op : Instr) (pr : Program D) (g : Progress D) : Driver D :=
  match g.stop with
  | .waiting k => (u.advance g).suspend op k
  | .returned v => (u.advance g).returnValue v
  | .raised st => (u.advance g).takeException pr.onException st

/-- Carry out an operation from its start, until it ends or a call is not answered. -/
def Driver.launch {D : Type} (u : Driver D) (op : Instr) (pr : Program D) : Driver D :=
  u.settle op pr (run pr.body 0 u.data u.port.answers)

/-- Go on with the operation whose call of statement `k` is outstanding. `none` if no call stands there. -/
def Driver.resume {D : Type} (u : Driver D) (op : Instr) (k : Nat) (pr : Program D) : Option (Driver D) :=
  match goOn (pr.body.drop k) k u.data u.port.answers with
  | none => none
  | some g => some (u.settle op pr g)

/-- Whether a unit is between operations (00_scope.md R5). -/
def Driver.isIdle {D : Type} (u : Driver D) : Bool := decide (u.port.seq = .idle)

/-! ### On the whole block: a unit handed an operation while it is busy refuses it (93_implementation_defined.md U7) -/

/-- Hand SEG an operation. -/
def startSeg (op : Instr) (pr : Program SegData) (s : State) : Host.Outcome State Fault Refusal :=
  if s.seg.isIdle then .next { s with seg := s.seg.launch op pr } else .refused .unitBusy

/-- Hand MAT an operation. -/
def startMat (op : Instr) (pr : Program MatData) (s : State) : Host.Outcome State Fault Refusal :=
  if s.mat.isIdle then .next { s with mat := s.mat.launch op pr } else .refused .unitBusy

/-- Hand LCD an operation. -/
def startLcd (op : Instr) (pr : Program LcdData) (s : State) : Host.Outcome State Fault Refusal :=
  if s.lcd.isIdle then .next { s with lcd := s.lcd.launch op pr } else .refused .unitBusy

/-- Hand MAT a pixel operation, whose coordinates the block does not check: outside the grid it has no meaning
(60_exceptions.md R150, 93_implementation_defined.md U1). -/
def startPixel (op : Instr) (x y : Word) (pr : Program MatData) (s : State) : Host.Outcome State Fault Refusal :=
  if pixelInGrid x y then startMat op pr s else .refused .outsidePrecondition

end Sys2Proof.Machine
end

