-- ==== Sys2Proof/Machine/Lcd.lean ====
section
/-! DEFINITION. LCD, the parallel-LCD bit-bang controller: the pseudocode of its operations (42_lcd.md R110 to R116) and
of its emitted encodings (30_encoding.md R59, R60), and their meanings. A list of pin writes `(pin, level)` stands for
the calls of `LCD.setPin` an operation makes, in order. -/

namespace Sys2Proof.Machine

/-! ### Pin writes -/

/-- The four data-line writes that present nibble `n`: line `i` takes bit `i`, `i = 0, 1, 2, 3` (42_lcd.md R111). -/
def nibblePins (p : Params) (n : Nibble) : List (BitVec 3 × Bool) :=
  [(p.lcdPinD0, n.getLsbD 0), (p.lcdPinD1, n.getLsbD 1), (p.lcdPinD2, n.getLsbD 2), (p.lcdPinD3, n.getLsbD 3)]

/-- The enable pulse: low, high, low (R112). -/
def pulsePins (p : Params) : List (BitVec 3 × Bool) := [(p.lcdPinEn, false), (p.lcdPinEn, true), (p.lcdPinEn, false)]

/-- The byte transfer: register select, upper nibble, pulse, lower nibble, pulse (R113). -/
def write8Pins (p : Params) (byte : Byte) (isCharacterMode : Bool) : List (BitVec 3 × Bool) :=
  (p.lcdPinRs, isCharacterMode) :: nibblePins p (hiNibble byte) ++ pulsePins p ++
    nibblePins p (loNibble byte) ++ pulsePins p

/-! ### Pseudocode, over the parameters -/

/-- `BusReg(LCD_REG_LATCH, LCD_LATCH)`: success makes `LCD_DEV_LATCH` the latch, failure makes it unknown (R110,
10_state.md R19). -/
def latchWrite (p : Params) : Stmt LcdData :=
  .call (fun d => .busReg p.lcdRegLatch d.latch)
    (fun a d => { d with dev := match a with
      | .complete => some d.latch
      | .fail => none })

/-- `Delay(kind)` (60_exceptions.md R152). -/
def delayCall (kind : DelayKind) : Stmt LcdData := plainCall (fun _ => .delay kind)

/-- `LCD.setPin`: change one bit of the latch, write the whole byte, wait one pulse (42_lcd.md R110). -/
def setPinStmts (p : Params) (w : BitVec 3 × Bool) : List (Stmt LcdData) :=
  [.assign (fun d => { d with latch := withPin d.latch w.1 w.2 }), latchWrite p, delayCall .pulse]

/-- Pin writes one after another. -/
def pinStmts (p : Params) (ws : List (BitVec 3 × Bool)) : List (Stmt LcdData) := ws.flatMap (setPinStmts p)

/-- An LCD program: any exception in it sets `LCD_LIFE <- UNKNOWN` (60_exceptions.md R148). -/
def lcdProgramOf (body : List (Stmt LcdData)) : Program LcdData where
  body := body
  onException := fun d => { d with life := .unknown }

/-- Emitted: the latch write alone (30_encoding.md R59). -/
def lcdLatchBody (p : Params) : List (Stmt LcdData) := [latchWrite p]

/-- Emitted: the direction-register write (42_lcd.md R115 step 1). -/
def lcdDirectionBody (p : Params) : List (Stmt LcdData) :=
  [plainCall (fun _ => .busReg p.lcdRegDirection p.lcdDirAllOutput)]

/-- `LCD.setPin` (R110). -/
def lcdSetPinBody (p : Params) (pin : BitVec 3) (level : Bool) : List (Stmt LcdData) := pinStmts p [(pin, level)]

/-- `LCD.pulseEnable` (R112). -/
def lcdPulseEnableBody (p : Params) : List (Stmt LcdData) := pinStmts p (pulsePins p)

/-- `LCD.write8` (R113). -/
def lcdWrite8Body (p : Params) (byte : Byte) (isCharacterMode : Bool) : List (Stmt LcdData) :=
  pinStmts p (write8Pins p byte isCharacterMode)

/-- Emitted: a logical command byte, sent by `LCD.write8(byte, false)` (30_encoding.md R60). -/
def lcdLogicalCommandBody (p : Params) (byte : Byte) : List (Stmt LcdData) := lcdWrite8Body p byte false

/-- `LCD.command` (R114). -/
def lcdCommandBody (p : Params) (byte : Byte) : List (Stmt LcdData) := lcdLogicalCommandBody p byte

/-- `LCD.message` (R116). -/
def lcdMessageBody (p : Params) (text : List Byte) : List (Stmt LcdData) :=
  text.flatMap (fun c => lcdWrite8Body p c true)

/-- `LCD.init` (R115), steps 1 to 6. -/
def lcdInitBody (p : Params) : List (Stmt LcdData) :=
  lcdDirectionBody p ++
  lcdSetPinBody p p.lcdPinBacklight true ++
  lcdWrite8Body p p.lcdWake1 false ++
  lcdWrite8Body p p.lcdWake2 false ++
  lcdCommandBody p p.initDisplayControl ++
  lcdCommandBody p p.initFunctionSet ++
  lcdCommandBody p p.initEntryMode ++
  lcdCommandBody p p.lcdCmdClearDisplay ++
  [delayCall .settle] ++
  lcdCommandBody p p.lcdCmdReturnHome ++
  [delayCall .settle] ++
  [.assign (fun d => { d with life := .ready })]

/-! ### Meanings of the requests -/

/-- 0x30, 42_lcd.md R115. -/
def execLcdInit (s : State) : Host.Outcome State Fault Refusal :=
  startLcd .lcdInit (lcdProgramOf (lcdInitBody Config.params)) s

/-- 0x31, R113. -/
def execLcdWrite8 (byte : Byte) (isCharacterMode : Bool) (s : State) : Host.Outcome State Fault Refusal :=
  startLcd (.lcdWrite8 byte isCharacterMode) (lcdProgramOf (lcdWrite8Body Config.params byte isCharacterMode)) s

/-- 0x32, R116. -/
def execLcdMessage (text : List Byte) (s : State) : Host.Outcome State Fault Refusal :=
  startLcd (.lcdMessage text) (lcdProgramOf (lcdMessageBody Config.params text)) s

/-- 0x33, R110. -/
def execLcdSetPin (pin : BitVec 3) (level : Bool) (s : State) : Host.Outcome State Fault Refusal :=
  startLcd (.lcdSetPin pin level) (lcdProgramOf (lcdSetPinBody Config.params pin level)) s

/-- 0x34, R112. -/
def execLcdPulseEnable (s : State) : Host.Outcome State Fault Refusal :=
  startLcd .lcdPulseEnable (lcdProgramOf (lcdPulseEnableBody Config.params)) s

/-- 0x35, R114. -/
def execLcdCommand (byte : Byte) (s : State) : Host.Outcome State Fault Refusal :=
  startLcd (.lcdCommand byte) (lcdProgramOf (lcdCommandBody Config.params byte)) s

/-! ### Meanings of the emitted encodings: the transactions, issued by LCD (log entry 8) -/

/-- LCD.latch, 30_encoding.md R59. -/
def execLcdLatch (s : State) : Host.Outcome State Fault Refusal :=
  startLcd .lcdLatch (lcdProgramOf (lcdLatchBody Config.params)) s

/-- LCD.direction, 42_lcd.md R115. -/
def execLcdDirection (s : State) : Host.Outcome State Fault Refusal :=
  startLcd .lcdDirection (lcdProgramOf (lcdDirectionBody Config.params)) s

/-- LCD.logical_command, 30_encoding.md R60. -/
def execLcdLogicalCommand (byte : Byte) (s : State) : Host.Outcome State Fault Refusal :=
  startLcd (.lcdLogicalCommand byte) (lcdProgramOf (lcdLogicalCommandBody Config.params byte)) s

end Sys2Proof.Machine
end

