-- ==== Sys2Proof/Machine/Matrix.lean ====
section
/-! DEFINITION. MAT, the dot-matrix LED encoder: the pseudocode of its operations (41_matrix.md R90 to R97) and of its
emitted encodings (30_encoding.md R57, 20_memory.md R37 b), and their meanings. -/

namespace Sys2Proof.Machine

/-! ### Pseudocode, over the parameters -/

/-- `BusFrame(cmd, data)`. -/
def frame (cmd data : Byte) : Stmt MatData := plainCall (fun _ => .busFrame cmd data)

/-- A MAT program during which an exception leaves the lifecycle alone (60_exceptions.md R148: all but setEnabled). -/
def matProgramOf (body : List (Stmt MatData)) : Program MatData := { body := body, onException := fun d => d }

/-- Emitted: the row frame, whose data byte is the row byte unchanged (30_encoding.md R57). -/
def matRowBody (p : Params) (row : BitVec 3) : List (Stmt MatData) :=
  [plainCall (fun d => .busFrame (rowCommand p row) (readRow d.fb row))]

/-- Emitted: the shutdown frame, run or hold (20_memory.md R37 b). -/
def matShutdownBody (p : Params) (run : Bool) : List (Stmt MatData) :=
  [frame p.matCmdShutdown (if run then p.matDataRun else p.matDataHold)]

/-- Emitted: the decode-mode frame. -/
def matDecodeModeBody (p : Params) : List (Stmt MatData) := [frame p.matCmdDecodeMode p.matDataNoDecode]

/-- Emitted: the scan-limit frame. -/
def matScanLimitBody (p : Params) : List (Stmt MatData) := [frame p.matCmdScanLimit p.matDataScanAll]

/-- Emitted: the intensity frame. -/
def matIntensityBody (p : Params) (level : Byte) : List (Stmt MatData) := [frame p.matCmdIntensity level]

/-- Emitted: the display-test frame. -/
def matDisplayTestBody (p : Params) (on : Bool) : List (Stmt MatData) :=
  [frame p.matCmdDisplayTest (if on then p.matDataTestOn else p.matDataTestOff)]

/-- `MAT.clear` (41_matrix.md R90). -/
def matClearBody : List (Stmt MatData) := [.assign (fun d => { d with fb := Vector.replicate 8 0 })]

/-- The rows in the order a refresh sends them: 0 to 7 (R91). -/
def refreshRows : List (BitVec 3) := [0, 1, 2, 3, 4, 5, 6, 7]

/-- `MAT.refresh` (R91). -/
def matRefreshBody (p : Params) : List (Stmt MatData) := refreshRows.flatMap (matRowBody p)

/-- `MAT.refreshRow` (R92): the upper bound is strict. -/
def matRefreshRowBody (p : Params) (row : Word) : List (Stmt MatData) :=
  .check (inRange 0 7 row) :: matRowBody p (rowField row)

/-- `MAT.setEnabled` (R93): three frames when enabling, one when disabling. -/
def matSetEnabledBody (p : Params) (enabled : Bool) : List (Stmt MatData) :=
  if enabled then
    matShutdownBody p true ++ matDecodeModeBody p ++ matScanLimitBody p ++
      [.assign (fun d => { d with life := .enabled })]
  else
    matShutdownBody p false ++ [.assign (fun d => { d with life := .disabled })]

/-- `MAT.setEnabled` with its exceptions: a transport failure sets `MAT_LIFE <- UNKNOWN` (60_exceptions.md R148). -/
def matSetEnabledProgram (p : Params) (enabled : Bool) : Program MatData where
  body := matSetEnabledBody p enabled
  onException := fun d => { d with life := .unknown }

/-- `MAT.setTestMode` (R94). -/
def matSetTestModeBody (p : Params) (enabled : Bool) : List (Stmt MatData) := matDisplayTestBody p enabled

/-- `MAT.setBrightness` (R95). -/
def matSetBrightnessBody (p : Params) (level : Word) : List (Stmt MatData) :=
  .check (inRange 0 15 level) :: matIntensityBody p (byteField level)

/-- `MAT.setPixel` inside the grid (R96). -/
def matSetPixelBody (x y : BitVec 3) (enabled : Bool) : List (Stmt MatData) :=
  [.assign (fun d => { d with fb := writePixel d.fb x y enabled })]

/-- `MAT.getPixel` inside the grid (R97). -/
def matGetPixelBody (x y : BitVec 3) : List (Stmt MatData) := [.ret (fun d => readPixel d.fb x y)]

/-! ### Meanings of the requests -/

/-- 0x20, 41_matrix.md R90. -/
def execMatClear (s : State) : Host.Outcome State Fault Refusal :=
  startMat .matClear (matProgramOf matClearBody) s

/-- 0x21, R91. -/
def execMatRefresh (s : State) : Host.Outcome State Fault Refusal :=
  startMat .matRefresh (matProgramOf (matRefreshBody Config.params)) s

/-- 0x22, R93. -/
def execMatSetEnabled (enabled : Bool) (s : State) : Host.Outcome State Fault Refusal :=
  startMat (.matSetEnabled enabled) (matSetEnabledProgram Config.params enabled) s

/-- 0x23, R94. -/
def execMatSetTestMode (enabled : Bool) (s : State) : Host.Outcome State Fault Refusal :=
  startMat (.matSetTestMode enabled) (matProgramOf (matSetTestModeBody Config.params enabled)) s

/-- 0x24, R95. -/
def execMatSetBrightness (level : Word) (s : State) : Host.Outcome State Fault Refusal :=
  startMat (.matSetBrightness level) (matProgramOf (matSetBrightnessBody Config.params level)) s

/-- 0x25, R96. -/
def execMatSetPixel (x y : Word) (enabled : Bool) (s : State) : Host.Outcome State Fault Refusal :=
  startPixel (.matSetPixel x y enabled) x y (matProgramOf (matSetPixelBody (rowField x) (rowField y) enabled)) s

/-- 0x26, R97. -/
def execMatGetPixel (x y : Word) (s : State) : Host.Outcome State Fault Refusal :=
  startPixel (.matGetPixel x y) x y (matProgramOf (matGetPixelBody (rowField x) (rowField y))) s

/-- 0x27, R92. -/
def execMatRefreshRow (row : Word) (s : State) : Host.Outcome State Fault Refusal :=
  startMat (.matRefreshRow row) (matProgramOf (matRefreshRowBody Config.params row)) s

/-! ### Meanings of the emitted encodings: the transaction, issued by MAT (log entry 8) -/

/-- MAT.row, 30_encoding.md R57. -/
def execMatRow (row : BitVec 3) (s : State) : Host.Outcome State Fault Refusal :=
  startMat (.matRow row) (matProgramOf (matRowBody Config.params row)) s

/-- MAT.shutdown, 20_memory.md R37 (b). -/
def execMatShutdown (run : Bool) (s : State) : Host.Outcome State Fault Refusal :=
  startMat (.matShutdown run) (matProgramOf (matShutdownBody Config.params run)) s

/-- MAT.decode_mode, R37 (b). -/
def execMatDecodeMode (s : State) : Host.Outcome State Fault Refusal :=
  startMat .matDecodeMode (matProgramOf (matDecodeModeBody Config.params)) s

/-- MAT.scan_limit, R37 (b). -/
def execMatScanLimit (s : State) : Host.Outcome State Fault Refusal :=
  startMat .matScanLimit (matProgramOf (matScanLimitBody Config.params)) s

/-- MAT.intensity, R37 (b). -/
def execMatIntensity (level : Byte) (s : State) : Host.Outcome State Fault Refusal :=
  startMat (.matIntensity level) (matProgramOf (matIntensityBody Config.params level)) s

/-- MAT.display_test, R37 (b). -/
def execMatDisplayTest (on : Bool) (s : State) : Host.Outcome State Fault Refusal :=
  startMat (.matDisplayTest on) (matProgramOf (matDisplayTestBody Config.params on)) s

end Sys2Proof.Machine
end

