-- ==== Sys2Proof/Machine/Segment.lean ====
section
/-! DEFINITION. SEG, the 7-segment display encoder: the pseudocode of its operations (40_segment.md R70 to R77) and of
its emitted encodings (30_encoding.md R55, R56), and their meanings. -/

namespace Sys2Proof.Machine

/-! ### Pseudocode, over the parameters -/

/-- `BusStrobe((command << 4) | setting)`. -/
def strobe (command setting : Nibble) : Stmt SegData := plainCall (fun _ => .busStrobe (cmdByte command setting))

/-- A SEG program during which an exception leaves the lifecycle alone (60_exceptions.md R148: all but setEnabled). -/
def segProgramOf (body : List (Stmt SegData)) : Program SegData := { body := body, onException := fun d => d }

/-- Emitted: any command byte (30_encoding.md R55). -/
def segCmdbyteBody (command setting : Nibble) : List (Stmt SegData) := [strobe command setting]

/-- Emitted: display data (R56 a). -/
def segDisplayDataBody : List (Stmt SegData) := segCmdbyteBody segCmdDisplayData segSetDisplayData

/-- Emitted: system setup (R56 b). -/
def segSystemSetupBody (p : Params) (on : Bool) : List (Stmt SegData) :=
  segCmdbyteBody p.segCmdSystemSetup (if on then p.segSetOscOn else p.segSetOscOff)

/-- Emitted: display setup (R56 c). -/
def segDisplaySetupBody (p : Params) (rate : BitVec 2) (on : Bool) : List (Stmt SegData) :=
  segCmdbyteBody p.segCmdDisplaySetup (displaySetting p rate on)

/-- Emitted: dimming set (R56 d). -/
def segDimmingSetBody (p : Params) (level : Nibble) : List (Stmt SegData) := segCmdbyteBody p.segCmdDimmingSet level

/-- The bulk write of the whole framebuffer from register 0 on (20_memory.md R32). -/
def segBulk : Stmt SegData := plainCall (fun d => .busBulk segDataBaseReg d.fb.toList segBufLen)

/-- `SEG.clear` (40_segment.md R70). -/
def segClearBody : List (Stmt SegData) := [.assign (fun d => { d with fb := Vector.replicate 16 0 })]

/-- `SEG.refresh` (R71): display data, then the bulk write. -/
def segRefreshBody : List (Stmt SegData) := segDisplayDataBody ++ [segBulk]

/-- `SEG.setEnabled` (R72): system setup first, display setup second, in both directions. -/
def segSetEnabledBody (p : Params) (enabled : Bool) : List (Stmt SegData) :=
  segSystemSetupBody p enabled ++ segDisplaySetupBody p 0 enabled ++
    [.assign (fun d => { d with life := if enabled then .enabled else .disabled })]

/-- `SEG.setEnabled` with its exceptions: a transport failure sets `SEG_LIFE <- UNKNOWN` (60_exceptions.md R148). -/
def segSetEnabledProgram (p : Params) (enabled : Bool) : Program SegData where
  body := segSetEnabledBody p enabled
  onException := fun d => { d with life := .unknown }

/-- `SEG.setBlinkRate` (R74). -/
def segSetBlinkRateBody (p : Params) (rate : Word) : List (Stmt SegData) :=
  .check (inRange 0 3 rate) :: segDisplaySetupBody p (rateField rate) true

/-- `SEG.setBrightness` (R75). -/
def segSetBrightnessBody (p : Params) (level : Word) : List (Stmt SegData) :=
  .check (inRange 0 15 level) :: segDimmingSetBody p (nibbleField level)

/-- `SEG.execute` (R76): `command` is checked first. -/
def segExecuteBody (command setting : Word) : List (Stmt SegData) :=
  .check (inRange 0 15 command) :: .check (inRange 0 15 setting) ::
    segCmdbyteBody (nibbleField command) (nibbleField setting)

/-- `SEG.writeBuffer` (R77): `index` is checked first. -/
def segWriteBufferBody (index value : Word) : List (Stmt SegData) :=
  [.check (inRange 0 15 index), .check (inRange 0 255 value),
    .assign (fun d => { d with fb := writeEntry d.fb (nibbleField index) (byteField value) })]

/-! ### Meanings of the requests -/

/-- 0x10, 40_segment.md R70. -/
def execSegClear (s : State) : Host.Outcome State Fault Refusal :=
  startSeg .segClear (segProgramOf segClearBody) s

/-- 0x11, R71. -/
def execSegRefresh (s : State) : Host.Outcome State Fault Refusal :=
  startSeg .segRefresh (segProgramOf segRefreshBody) s

/-- 0x12, R72. -/
def execSegSetEnabled (enabled : Bool) (s : State) : Host.Outcome State Fault Refusal :=
  startSeg (.segSetEnabled enabled) (segSetEnabledProgram Config.params enabled) s

/-- 0x13, R74. -/
def execSegSetBlinkRate (rate : Word) (s : State) : Host.Outcome State Fault Refusal :=
  startSeg (.segSetBlinkRate rate) (segProgramOf (segSetBlinkRateBody Config.params rate)) s

/-- 0x14, R75. -/
def execSegSetBrightness (level : Word) (s : State) : Host.Outcome State Fault Refusal :=
  startSeg (.segSetBrightness level) (segProgramOf (segSetBrightnessBody Config.params level)) s

/-- 0x15, R76. -/
def execSegExecute (command setting : Word) (s : State) : Host.Outcome State Fault Refusal :=
  startSeg (.segExecute command setting) (segProgramOf (segExecuteBody command setting)) s

/-- 0x16, R77. -/
def execSegWriteBuffer (index value : Word) (s : State) : Host.Outcome State Fault Refusal :=
  startSeg (.segWriteBuffer index value) (segProgramOf (segWriteBufferBody index value)) s

/-! ### Meanings of the emitted encodings: the transaction, issued by SEG (log entry 8) -/

/-- SEG.cmdbyte, 30_encoding.md R55. -/
def execSegCmdbyte (command setting : Nibble) (s : State) : Host.Outcome State Fault Refusal :=
  startSeg (.segCmdbyte command setting) (segProgramOf (segCmdbyteBody command setting)) s

/-- SEG.display_data, R56 (a). -/
def execSegDisplayData (s : State) : Host.Outcome State Fault Refusal :=
  startSeg .segDisplayData (segProgramOf segDisplayDataBody) s

/-- SEG.system_setup, R56 (b). -/
def execSegSystemSetup (on : Bool) (s : State) : Host.Outcome State Fault Refusal :=
  startSeg (.segSystemSetup on) (segProgramOf (segSystemSetupBody Config.params on)) s

/-- SEG.display_setup, R56 (c). -/
def execSegDisplaySetup (rate : BitVec 2) (on : Bool) (s : State) : Host.Outcome State Fault Refusal :=
  startSeg (.segDisplaySetup rate on) (segProgramOf (segDisplaySetupBody Config.params rate on)) s

/-- SEG.dimming_set, R56 (d). -/
def execSegDimmingSet (level : Nibble) (s : State) : Host.Outcome State Fault Refusal :=
  startSeg (.segDimmingSet level) (segProgramOf (segDimmingSetBody Config.params level)) s

end Sys2Proof.Machine
end

