-- ==== Sys2Proof/Machine/Fetch.lean ====
section
/-! DEFINITION. Which program a unit's sequencer is in the middle of (10_state.md R20: the operation, its operands and
the step index), and what the machine does next: take the host's next request (00_scope.md R5, R7), or go on with an
operation whose outstanding call has been answered (20_memory.md R35). -/

namespace Sys2Proof.Machine

/-- The program of an operation of SEG; `none` for an operation of another unit. -/
def segProgram (p : Params) (op : Instr) : Option (Program SegData) :=
  match op with
  | .segClear => some (segProgramOf segClearBody)
  | .segRefresh => some (segProgramOf segRefreshBody)
  | .segSetEnabled e => some (segSetEnabledProgram p e)
  | .segSetBlinkRate v => some (segProgramOf (segSetBlinkRateBody p v))
  | .segSetBrightness v => some (segProgramOf (segSetBrightnessBody p v))
  | .segExecute c v => some (segProgramOf (segExecuteBody c v))
  | .segWriteBuffer k v => some (segProgramOf (segWriteBufferBody k v))
  | .matClear => none
  | .matRefresh => none
  | .matSetEnabled _ => none
  | .matSetTestMode _ => none
  | .matSetBrightness _ => none
  | .matSetPixel _ _ _ => none
  | .matGetPixel _ _ => none
  | .matRefreshRow _ => none
  | .lcdInit => none
  | .lcdWrite8 _ _ => none
  | .lcdMessage _ => none
  | .lcdSetPin _ _ => none
  | .lcdPulseEnable => none
  | .lcdCommand _ => none
  | .segCmdbyte c v => some (segProgramOf (segCmdbyteBody c v))
  | .segDisplayData => some (segProgramOf segDisplayDataBody)
  | .segSystemSetup o => some (segProgramOf (segSystemSetupBody p o))
  | .segDisplaySetup r o => some (segProgramOf (segDisplaySetupBody p r o))
  | .segDimmingSet v => some (segProgramOf (segDimmingSetBody p v))
  | .matRow _ => none
  | .matShutdown _ => none
  | .matDecodeMode => none
  | .matScanLimit => none
  | .matIntensity _ => none
  | .matDisplayTest _ => none
  | .lcdLatch => none
  | .lcdDirection => none
  | .lcdLogicalCommand _ => none

/-- The program of an operation of MAT; `none` for an operation of another unit. -/
def matProgram (p : Params) (op : Instr) : Option (Program MatData) :=
  match op with
  | .segClear => none
  | .segRefresh => none
  | .segSetEnabled _ => none
  | .segSetBlinkRate _ => none
  | .segSetBrightness _ => none
  | .segExecute _ _ => none
  | .segWriteBuffer _ _ => none
  | .matClear => some (matProgramOf matClearBody)
  | .matRefresh => some (matProgramOf (matRefreshBody p))
  | .matSetEnabled e => some (matSetEnabledProgram p e)
  | .matSetTestMode e => some (matProgramOf (matSetTestModeBody p e))
  | .matSetBrightness v => some (matProgramOf (matSetBrightnessBody p v))
  | .matSetPixel x y e => some (matProgramOf (matSetPixelBody (rowField x) (rowField y) e))
  | .matGetPixel x y => some (matProgramOf (matGetPixelBody (rowField x) (rowField y)))
  | .matRefreshRow v => some (matProgramOf (matRefreshRowBody p v))
  | .lcdInit => none
  | .lcdWrite8 _ _ => none
  | .lcdMessage _ => none
  | .lcdSetPin _ _ => none
  | .lcdPulseEnable => none
  | .lcdCommand _ => none
  | .segCmdbyte _ _ => none
  | .segDisplayData => none
  | .segSystemSetup _ => none
  | .segDisplaySetup _ _ => none
  | .segDimmingSet _ => none
  | .matRow r => some (matProgramOf (matRowBody p r))
  | .matShutdown r => some (matProgramOf (matShutdownBody p r))
  | .matDecodeMode => some (matProgramOf (matDecodeModeBody p))
  | .matScanLimit => some (matProgramOf (matScanLimitBody p))
  | .matIntensity v => some (matProgramOf (matIntensityBody p v))
  | .matDisplayTest o => some (matProgramOf (matDisplayTestBody p o))
  | .lcdLatch => none
  | .lcdDirection => none
  | .lcdLogicalCommand _ => none

/-- The program of an operation of LCD; `none` for an operation of another unit. -/
def lcdProgram (p : Params) (op : Instr) : Option (Program LcdData) :=
  match op with
  | .segClear => none
  | .segRefresh => none
  | .segSetEnabled _ => none
  | .segSetBlinkRate _ => none
  | .segSetBrightness _ => none
  | .segExecute _ _ => none
  | .segWriteBuffer _ _ => none
  | .matClear => none
  | .matRefresh => none
  | .matSetEnabled _ => none
  | .matSetTestMode _ => none
  | .matSetBrightness _ => none
  | .matSetPixel _ _ _ => none
  | .matGetPixel _ _ => none
  | .matRefreshRow _ => none
  | .lcdInit => some (lcdProgramOf (lcdInitBody p))
  | .lcdWrite8 v m => some (lcdProgramOf (lcdWrite8Body p v m))
  | .lcdMessage t => some (lcdProgramOf (lcdMessageBody p t))
  | .lcdSetPin q l => some (lcdProgramOf (lcdSetPinBody p q l))
  | .lcdPulseEnable => some (lcdProgramOf (lcdPulseEnableBody p))
  | .lcdCommand v => some (lcdProgramOf (lcdCommandBody p v))
  | .segCmdbyte _ _ => none
  | .segDisplayData => none
  | .segSystemSetup _ => none
  | .segDisplaySetup _ _ => none
  | .segDimmingSet _ => none
  | .matRow _ => none
  | .matShutdown _ => none
  | .matDecodeMode => none
  | .matScanLimit => none
  | .matIntensity _ => none
  | .matDisplayTest _ => none
  | .lcdLatch => some (lcdProgramOf (lcdLatchBody p))
  | .lcdDirection => some (lcdProgramOf (lcdDirectionBody p))
  | .lcdLogicalCommand v => some (lcdProgramOf (lcdLogicalCommandBody p v))

/-! ### Going on after an answer -/

/-- Whether a unit has an outstanding call and its answer has come. -/
def Driver.answerReady {D : Type} (u : Driver D) : Bool := !u.isIdle && !u.port.answers.isEmpty

/-- The unit after its outstanding call is answered; `none` if its position is none its operations have. -/
def Driver.goOnWith {D : Type} (programs : Instr → Option (Program D)) (u : Driver D) : Option (Driver D) :=
  match u.port.seq with
  | .idle => none
  | .busy op k =>
    match programs op with
    | none => none
    | some pr => u.resume op k pr

/-- Give the answer that has come to SEG. -/
def resumeSeg (p : Params) (s : State) : Host.Outcome State Fault Refusal :=
  match s.seg.goOnWith (segProgram p) with
  | none => .fault .sequencerPosition
  | some u => .next { s with seg := u }

/-- Give the answer that has come to MAT. -/
def resumeMat (p : Params) (s : State) : Host.Outcome State Fault Refusal :=
  match s.mat.goOnWith (matProgram p) with
  | none => .fault .sequencerPosition
  | some u => .next { s with mat := u }

/-- Give the answer that has come to LCD. -/
def resumeLcd (p : Params) (s : State) : Host.Outcome State Fault Refusal :=
  match s.lcd.goOnWith (lcdProgram p) with
  | none => .fault .sequencerPosition
  | some u => .next { s with lcd := u }

/-- A step that takes no request: the first of SEG, MAT, LCD whose answer has come goes on; the units share nothing, so
the order cannot be seen in any of them (60_exceptions.md R157; DESIGN CHOICE, log entry 3). If no answer has come,
everything stays as it is: a unit that is not answered stays busy (20_memory.md R35). -/
def goOnOrWait (s : State) : Host.Outcome State Fault Refusal :=
  if s.seg.answerReady then resumeSeg Config.params s
  else if s.mat.answerReady then resumeMat Config.params s
  else if s.lcd.answerReady then resumeLcd Config.params s
  else .next s

/-! ### Taking a request -/

/-- Whether a unit is between operations. -/
def State.unitIdle (s : State) (u : UnitId) : Bool :=
  match u with
  | .seg => s.seg.isIdle
  | .mat => s.mat.isIdle
  | .lcd => s.lcd.isIdle

/-- The response to a reserved opcode (30_encoding.md R61): the unit the opcode names answers it, and its result
registers are overwritten; if it names none the decoder answers. Nothing else changes. -/
def answerReserved (opcode : Byte) (s : State) : State :=
  match unitOfOpcode opcode with
  | some .seg => { s with seg := s.seg.respond .unknownOperation false }
  | some .mat => { s with mat := s.mat.respond .unknownOperation false }
  | some .lcd => { s with lcd := s.lcd.respond .unknownOperation false }
  | none => { s with decoderResponses := s.decoderResponses ++ [⟨.unknownOperation, false⟩] }

/-- Whether the unit an opcode names can take a request; the decoder always can. -/
def reservedReady (opcode : Byte) (s : State) : Bool :=
  match unitOfOpcode opcode with
  | some u => s.unitIdle u
  | none => true

/-- What a step does. -/
inductive Fetched where
  /-- Carry out this operation in this state, from which the request has been taken. -/
  | operation (i : Instr) (s : State)
  /-- Take no operation: this is the outcome. -/
  | other (o : Host.Outcome State Fault Refusal)

/-- Fetch: the host's next request is accepted if its unit is idle (00_scope.md R5: a unit "accepts no request while one
is in progress"); otherwise, or with no request, some unit goes on or everything waits. -/
def fetch (s : State) : Fetched :=
  match s.requests with
  | [] => .other (goOnOrWait s)
  | r :: rest =>
    match decode r with
    | .operation i =>
      if s.unitIdle i.unit then .operation i { s with requests := rest } else .other (goOnOrWait s)
    | .reserved opcode =>
      if reservedReady opcode s then .other (.next (answerReserved opcode { s with requests := rest }))
      else .other (goOnOrWait s)

/-- A state in which the named unit is ready for a request. -/
def freeUnit (u : Option UnitId) (s : State) : State :=
  match u with
  | some .seg => { s with seg := { s.seg with port := { s.seg.port with seq := .idle } } }
  | some .mat => { s with mat := { s.mat with port := { s.mat.port with seq := .idle } } }
  | some .lcd => { s with lcd := { s.lcd with port := { s.lcd.port with seq := .idle } } }
  | none => s

/-- Make the request of bits `w` the host's next, and the unit it names ready for it (log entry 7). -/
def placeRequest (s : State) (nbits w : Nat) : State :=
  let r := requestOfBits nbits w
  { freeUnit (unitOfOpcode r.opcode) s with requests := r :: s.requests }

end Sys2Proof.Machine
end

