-- ==== Sys2Proof/Machine/Dispatch.lean ====
section
/-! DEFINITION. The dispatch: one arm per constructor of Instr, each one direct call of that instruction's meaning. -/

namespace Sys2Proof.Machine

def exec (i : Instr) (s : State) : Host.Outcome State Fault Refusal :=
  match i with
  | .segClear => Sys2Proof.Machine.execSegClear s
  | .segRefresh => Sys2Proof.Machine.execSegRefresh s
  | .segSetEnabled e => Sys2Proof.Machine.execSegSetEnabled e s
  | .segSetBlinkRate v => Sys2Proof.Machine.execSegSetBlinkRate v s
  | .segSetBrightness v => Sys2Proof.Machine.execSegSetBrightness v s
  | .segExecute c v => Sys2Proof.Machine.execSegExecute c v s
  | .segWriteBuffer k v => Sys2Proof.Machine.execSegWriteBuffer k v s
  | .matClear => Sys2Proof.Machine.execMatClear s
  | .matRefresh => Sys2Proof.Machine.execMatRefresh s
  | .matSetEnabled e => Sys2Proof.Machine.execMatSetEnabled e s
  | .matSetTestMode e => Sys2Proof.Machine.execMatSetTestMode e s
  | .matSetBrightness v => Sys2Proof.Machine.execMatSetBrightness v s
  | .matSetPixel x y e => Sys2Proof.Machine.execMatSetPixel x y e s
  | .matGetPixel x y => Sys2Proof.Machine.execMatGetPixel x y s
  | .matRefreshRow v => Sys2Proof.Machine.execMatRefreshRow v s
  | .lcdInit => Sys2Proof.Machine.execLcdInit s
  | .lcdWrite8 v m => Sys2Proof.Machine.execLcdWrite8 v m s
  | .lcdMessage t => Sys2Proof.Machine.execLcdMessage t s
  | .lcdSetPin q l => Sys2Proof.Machine.execLcdSetPin q l s
  | .lcdPulseEnable => Sys2Proof.Machine.execLcdPulseEnable s
  | .lcdCommand v => Sys2Proof.Machine.execLcdCommand v s
  | .segCmdbyte c v => Sys2Proof.Machine.execSegCmdbyte c v s
  | .segDisplayData => Sys2Proof.Machine.execSegDisplayData s
  | .segSystemSetup o => Sys2Proof.Machine.execSegSystemSetup o s
  | .segDisplaySetup r o => Sys2Proof.Machine.execSegDisplaySetup r o s
  | .segDimmingSet v => Sys2Proof.Machine.execSegDimmingSet v s
  | .matRow r => Sys2Proof.Machine.execMatRow r s
  | .matShutdown r => Sys2Proof.Machine.execMatShutdown r s
  | .matDecodeMode => Sys2Proof.Machine.execMatDecodeMode s
  | .matScanLimit => Sys2Proof.Machine.execMatScanLimit s
  | .matIntensity v => Sys2Proof.Machine.execMatIntensity v s
  | .matDisplayTest o => Sys2Proof.Machine.execMatDisplayTest o s
  | .lcdLatch => Sys2Proof.Machine.execLcdLatch s
  | .lcdDirection => Sys2Proof.Machine.execLcdDirection s
  | .lcdLogicalCommand v => Sys2Proof.Machine.execLcdLogicalCommand v s

end Sys2Proof.Machine
end

