-- ==== Sys2Proof/Machine/Step.lean ====
section
/-! DEFINITION. One step of the block: fetch, then carry out the operation fetched. -/

namespace Sys2Proof.Machine

/-- One step: an accepted request is carried out, from its first statement to its response or to a call that has no
answer yet; otherwise a unit goes on, or everything waits. -/
def step (s : State) : Host.Outcome State Fault Refusal :=
  match fetch s with
  | .operation i t => exec i t
  | .other o => o

/-- `s` with the request of bits `w` as the host's next, and the unit it names ready for it. -/
def State.withFetchWord (s : State) (nbits w : Nat) : State := placeRequest s nbits w

end Sys2Proof.Machine
end

