-- ==== Sys2Proof/Safety.lean ====
section
/-! DEFINITION. The terms statements are made in: a unit that has answered, a reliable environment, what an observer
reads in a trace (transactions, time, the latch values and the transfers they strobe), which events each unit may send,
the invariants of the machine, and the conditions of use the spec puts on the host. -/

namespace Sys2Proof.Machine

/-! ### A unit that has answered, and the environment -/

/-- Unit `u` after an operation that has ended: registers `d`, the events `es` appended to its trace, `as` the answers
not taken, the response `(st, v)` given and in the result registers, idle. -/
def Driver.finished {D : Type} (u : Driver D) (d : D) (es : List Event) (as : List Answer) (st : Status) (v : Bool) :
    Driver D :=
  { data := d,
    port := { seq := .idle, status := st, value := v, trace := u.port.trace ++ es,
              responses := u.port.responses ++ [⟨st, v⟩], answers := as } }

/-- Unit `u` in the middle of `op`: registers `d`, the events `es` appended, the call of statement `k` outstanding. -/
def Driver.waitingAt {D : Type} (u : Driver D) (d : D) (es : List Event) (op : Instr) (k : Nat) : Driver D :=
  { data := d, port := { u.port with seq := .busy op k, trace := u.port.trace ++ es, answers := [] } }

/-- The block after SEG has ended an operation; nothing else has changed. -/
def State.segEnds (s : State) (d : SegData) (es : List Event) (as : List Answer) (st : Status) (v : Bool) : State :=
  { s with seg := s.seg.finished d es as st v }

/-- The block after MAT has ended an operation; nothing else has changed. -/
def State.matEnds (s : State) (d : MatData) (es : List Event) (as : List Answer) (st : Status) (v : Bool) : State :=
  { s with mat := s.mat.finished d es as st v }

/-- The block after LCD has ended an operation; nothing else has changed. -/
def State.lcdEnds (s : State) (d : LcdData) (es : List Event) (as : List Answer) (st : Status) (v : Bool) : State :=
  { s with lcd := s.lcd.finished d es as st v }

/-- The port of a unit. -/
def State.portOf (s : State) (u : UnitId) : Port :=
  match u with
  | .seg => s.seg.port
  | .mat => s.mat.port
  | .lcd => s.lcd.port

/-- `s` with `as` as the answers unit `u` will get. -/
def State.withAnswers (s : State) (u : UnitId) (as : List Answer) : State :=
  match u with
  | .seg => { s with seg := { s.seg with port := { s.seg.port with answers := as } } }
  | .mat => { s with mat := { s.mat with port := { s.mat.port with answers := as } } }
  | .lcd => { s with lcd := { s.lcd with port := { s.lcd.port with answers := as } } }

/-- Whether unit `u` has an outstanding call whose answer has come. -/
def State.answerReady (s : State) (u : UnitId) : Bool :=
  match u with
  | .seg => s.seg.answerReady
  | .mat => s.mat.answerReady
  | .lcd => s.lcd.answerReady

/-- `n` good answers: the reliable-bus premise of 60_exceptions.md R144 for the next `n` calls. -/
def reliable (n : Nat) : List Answer := List.replicate n .complete

/-! ### Reading a trace -/

/-- How many bus transactions (00_scope.md section 7) are among the events. -/
def transactions (es : List Event) : Nat := es.countP isTransaction

/-- The least time an event takes, in microseconds: a delay lasts at least its duration (60_exceptions.md R152); the
spec gives no time for a transaction. -/
def leastTime (p : Params) (e : Event) : Nat :=
  match e with
  | .busStrobe _ => 0
  | .busBulk _ _ _ => 0
  | .busFrame _ _ => 0
  | .busReg _ _ => 0
  | .delay .pulse => p.tPulse
  | .delay .settle => p.tSettle

/-- The least time the events take (70_reset_and_hazards.md R192). -/
def leastTraceTime (p : Params) (es : List Event) : Nat := (es.map (leastTime p)).sum

/-- `W(v)` (00_scope.md section 6.4): a latch write and its pulse delay. -/
def latchPair (p : Params) (v : Byte) : List Event := [.busReg p.lcdRegLatch v, .delay .pulse]

/-- The latch after pin writes, one after another. -/
def latchAfter (latch : Byte) (ws : List (BitVec 3 × Bool)) : Byte := ws.foldl (fun l w => withPin l w.1 w.2) latch

/-- The latch values that pin writes put out, in order. -/
def latchSequence (latch : Byte) (ws : List (BitVec 3 × Bool)) : List Byte :=
  match ws with
  | [] => []
  | w :: rest => withPin latch w.1 w.2 :: latchSequence (withPin latch w.1 w.2) rest

/-- The events of pin writes: one `W(v)` for each. -/
def pinEvents (p : Params) (latch : Byte) (ws : List (BitVec 3 × Bool)) : List Event :=
  (latchSequence latch ws).flatMap (latchPair p)

/-- The pin writes of `LCD.init` up to its first settle delay: backlight, the two wake-up bytes, the three composed
commands, clear display (42_lcd.md R115, steps 2 to 5). -/
def initPins (p : Params) : List (BitVec 3 × Bool) :=
  (p.lcdPinBacklight, true) :: write8Pins p p.lcdWake1 false ++ write8Pins p p.lcdWake2 false ++
    write8Pins p p.initDisplayControl false ++ write8Pins p p.initFunctionSet false ++
    write8Pins p p.initEntryMode false ++ write8Pins p p.lcdCmdClearDisplay false

/-- The pin writes of `LCD.init` between its two settle delays: return home (R115, step 6). -/
def homePins (p : Params) : List (BitVec 3 × Bool) := write8Pins p p.lcdCmdReturnHome false

/-- The 215 events of `LCD.init` on a reliable environment, from a latch (R115, 95_test_vectors.md section 3.4). -/
def initEvents (p : Params) (latch : Byte) : List Event :=
  [.busReg p.lcdRegDirection p.lcdDirAllOutput] ++ pinEvents p latch (initPins p) ++ [.delay .settle] ++
    pinEvents p (latchAfter latch (initPins p)) (homePins p) ++ [.delay .settle]

/-- The pin writes of the LCD operations that make nothing but pin writes (42_lcd.md R110, R112, R113, R114, R116;
30_encoding.md R60). -/
def pinWritesOf (p : Params) (i : Instr) : Option (List (BitVec 3 × Bool)) :=
  match i with
  | .lcdSetPin pin level => some [(pin, level)]
  | .lcdPulseEnable => some (pulsePins p)
  | .lcdWrite8 byte mode => some (write8Pins p byte mode)
  | .lcdMessage text => some (text.flatMap (fun c => write8Pins p c true))
  | .lcdCommand byte => some (write8Pins p byte false)
  | .lcdLogicalCommand byte => some (write8Pins p byte false)
  | .lcdInit => none
  | .lcdLatch => none
  | .lcdDirection => none
  | .segClear => none
  | .segRefresh => none
  | .segSetEnabled _ => none
  | .segSetBlinkRate _ => none
  | .segSetBrightness _ => none
  | .segExecute _ _ => none
  | .segWriteBuffer _ _ => none
  | .segCmdbyte _ _ => none
  | .segDisplayData => none
  | .segSystemSetup _ => none
  | .segDisplaySetup _ _ => none
  | .segDimmingSet _ => none
  | .matClear => none
  | .matRefresh => none
  | .matSetEnabled _ => none
  | .matSetTestMode _ => none
  | .matSetBrightness _ => none
  | .matSetPixel _ _ _ => none
  | .matGetPixel _ _ => none
  | .matRefreshRow _ => none
  | .matRow _ => none
  | .matShutdown _ => none
  | .matDecodeMode => none
  | .matScanLimit => none
  | .matIntensity _ => none
  | .matDisplayTest _ => none

/-- The values written to the expander's latch, in order. -/
def latchValues (p : Params) (es : List Event) : List Byte :=
  es.filterMap (fun e => match e with
    | .busReg addr v => if addr = p.lcdRegLatch then some v else none
    | .busStrobe _ => none
    | .busBulk _ _ _ => none
    | .busFrame _ _ => none
    | .delay _ => none)

/-- The nibble on the four data lines of a latch value (42_lcd.md R111). -/
def dataLines (p : Params) (v : Byte) : Nibble :=
  BitVec.ofBool (pinLevel v p.lcdPinD3) ++ BitVec.ofBool (pinLevel v p.lcdPinD2) ++
    BitVec.ofBool (pinLevel v p.lcdPinD1) ++ BitVec.ofBool (pinLevel v p.lcdPinD0)

/-- What the display is shown while enable is high: for each latch value with the enable bit set, the register select
and the nibble on the data lines (95_test_vectors.md section 2.3, "Reading off the two enable-high values recovers the
transfer"). -/
def strobed (p : Params) (vs : List Byte) : List (Bool × Nibble) :=
  (vs.filter (fun v => pinLevel v p.lcdPinEn)).map (fun v => (pinLevel v p.lcdPinRs, dataLines p v))

/-- The two half-transfers of a byte, upper nibble first (42_lcd.md R113). -/
def halves (isCharacterMode : Bool) (byte : Byte) : List (Bool × Nibble) :=
  [(isCharacterMode, hiNibble byte), (isCharacterMode, loNibble byte)]

/-- Two bytes differ in at most one bit. -/
def differAtMostOneBit (v w : Byte) : Prop := v = w ∨ ∃ i : Fin 8, v ^^^ w = 1#8 <<< i.val

/-- Each value of the list differs from the one before it in at most one bit. -/
def OneBitSteps (vs : List Byte) : Prop := List.IsChain differAtMostOneBit vs

/-! ### What each unit may send (20_memory.md R31 to R34, R37) -/

/-- SEG sends strobes, and bulk writes of 16 bytes from register 0 on (20_memory.md R31, R32). -/
def segMaySend (e : Event) : Bool :=
  match e with
  | .busStrobe _ => true
  | .busBulk addr buf len =>
    decide (addr = segDataBaseReg) && decide (len = segBufLen) && decide (buf.length = segBufLen)
  | .busFrame _ _ => false
  | .busReg _ _ => false
  | .delay _ => false

/-- MAT sends the frames of the table of 20_memory.md R37 (b) and nothing else. -/
def matMaySend (p : Params) (e : Event) : Bool :=
  match e with
  | .busStrobe _ => false
  | .busBulk _ _ _ => false
  | .busFrame cmd data => (readFrame p cmd data).isSome
  | .busReg _ _ => false
  | .delay _ => false

/-- LCD sends latch writes, the direction write and delays (20_memory.md R37 c). -/
def lcdMaySend (p : Params) (e : Event) : Bool :=
  match e with
  | .busStrobe _ => false
  | .busBulk _ _ _ => false
  | .busFrame _ _ => false
  | .busReg addr value => (readReg p addr value).isSome
  | .delay _ => true

/-! ### Invariants -/

/-- Every event of each trace is one its unit may send. -/
def TracesSound (p : Params) (s : State) : Prop :=
  (∀ e ∈ s.seg.port.trace, segMaySend e = true) ∧ (∀ e ∈ s.mat.port.trace, matMaySend p e = true) ∧
  (∀ e ∈ s.lcd.port.trace, lcdMaySend p e = true)

/-- The event of the call a unit is waiting on. -/
def Driver.outstanding {D : Type} (programs : Instr → Option (Program D)) (u : Driver D) : Option Event :=
  match u.port.seq with
  | .idle => none
  | .busy op k =>
    match programs op with
    | none => none
    | some pr =>
      match pr.body[k]? with
      | some (.call ev _) => some (ev u.data)
      | some (.assign _) => none
      | some (.check _) => none
      | some (.ret _) => none
      | none => none

/-- The event of the call unit `u` is waiting on. -/
def State.outstanding (p : Params) (s : State) (u : UnitId) : Option Event :=
  match u with
  | .seg => s.seg.outstanding (segProgram p)
  | .mat => s.mat.outstanding (matProgram p)
  | .lcd => s.lcd.outstanding (lcdProgram p)

/-- A unit is idle, or in the middle of one of its own operations, at a call (10_state.md R20). -/
def Driver.PositionSound {D : Type} (programs : Instr → Option (Program D)) (u : Driver D) : Prop :=
  u.port.seq = .idle ∨ (u.outstanding programs).isSome = true

/-- Every unit's sequencer position is one its operations have. -/
def SequencersSound (p : Params) (s : State) : Prop :=
  s.seg.PositionSound (segProgram p) ∧ s.mat.PositionSound (matProgram p) ∧ s.lcd.PositionSound (lcdProgram p)

/-- The latch and what the device was last given agree, unless that is unknown (10_state.md R13). -/
def LatchAgrees (d : LcdData) : Prop := d.dev = none ∨ d.dev = some d.latch

/-- The invariant of 10_state.md R13 between steps: the latch and the device agree, or the write that will make them
agree is outstanding. -/
def LatchSound (p : Params) (s : State) : Prop :=
  LatchAgrees s.lcd.data ∨ s.lcd.outstanding (lcdProgram p) = some (.busReg p.lcdRegLatch s.lcd.data.latch)

/-! ### Conditions of use, which no unit checks (60_exceptions.md R150, 70_reset_and_hazards.md) -/

/-- The operations the source lets callers use (30_encoding.md R51, 60_exceptions.md R155); `SEG.writeBuffer`, the
spec's own write port, is among them. -/
def isPublic (i : Instr) : Bool :=
  match i with
  | .segClear => true
  | .segRefresh => true
  | .segSetEnabled _ => true
  | .segSetBlinkRate _ => true
  | .segSetBrightness _ => true
  | .segExecute _ _ => false
  | .segWriteBuffer _ _ => true
  | .matClear => true
  | .matRefresh => true
  | .matSetEnabled _ => true
  | .matSetTestMode _ => true
  | .matSetBrightness _ => true
  | .matSetPixel _ _ _ => true
  | .matGetPixel _ _ => true
  | .matRefreshRow _ => false
  | .lcdInit => true
  | .lcdWrite8 _ _ => false
  | .lcdMessage _ => true
  | .lcdSetPin _ _ => false
  | .lcdPulseEnable => false
  | .lcdCommand _ => false
  | .segCmdbyte _ _ => false
  | .segDisplayData => false
  | .segSystemSetup _ => false
  | .segDisplaySetup _ _ => false
  | .segDimmingSet _ => false
  | .matRow _ => false
  | .matShutdown _ => false
  | .matDecodeMode => false
  | .matScanLimit => false
  | .matIntensity _ => false
  | .matDisplayTest _ => false
  | .lcdLatch => false
  | .lcdDirection => false
  | .lcdLogicalCommand _ => false

/-- SEG output is meaningful (70_reset_and_hazards.md R181). -/
def segOutputMeaningful (s : State) : Prop := s.seg.data.life = .enabled

/-- MAT output is meaningful (R181). -/
def matOutputMeaningful (s : State) : Prop := s.mat.data.life = .enabled

/-- Characters may be sent to LCD (R182). -/
def lcdOutputMeaningful (s : State) : Prop := s.lcd.data.life = .ready

/-- The display and LCD are in step for the next transfer as far as the latch shows: enable is low (42_lcd.md R118). -/
def enableLow (p : Params) (s : State) : Prop := pinLevel s.lcd.data.latch p.lcdPinEn = false

end Sys2Proof.Machine
end

