-- ==== Sys2Proof/Certificates/Slice0/Obligations.lean ====
section
/-! DEFINITION. The statements for the provers. Every premise is on the state and the operands alone. In a premise,
`answers` are the answers the environment will give: `complete` is success or done, `fail` is failure or interrupted
(log entry 9). `segEnds`, `matEnds` and `lcdEnds` name the whole next state, so that each says the frame too: nothing
of the block changes but what they list. -/

open Sys2Proof Sys2Proof.Machine

/-! ### SEG (40_segment.md) -/

/-- 40_segment.md R70: `SEG.clear` zero-fills the framebuffer and sends nothing. -/
def Obligations.SegClearZeroFills : Prop :=
  ∀ s : State, s.seg.isIdle = true →
    exec .segClear s =
      .next (s.segEnds { s.seg.data with fb := Vector.replicate 16 0 } [] s.seg.port.answers .ok false)

/-- 40_segment.md R71: `SEG.refresh` sends the display-data strobe 0x00, then the 16 bytes from register 0 on; a
failed strobe leaves out the bulk write; no register changes. -/
def Obligations.SegRefreshSendsFramebuffer : Prop :=
  ∀ (s : State) (rest : List Answer), s.seg.isIdle = true →
    (s.seg.port.answers = .complete :: .complete :: rest →
      exec .segRefresh s = .next (s.segEnds s.seg.data
        [.busStrobe 0x00, .busBulk 0x00 s.seg.data.fb.toList 16] rest .ok false)) ∧
    (s.seg.port.answers = .complete :: .fail :: rest →
      exec .segRefresh s = .next (s.segEnds s.seg.data
        [.busStrobe 0x00, .busBulk 0x00 s.seg.data.fb.toList 16] rest .transportFailure false)) ∧
    (s.seg.port.answers = .fail :: rest →
      exec .segRefresh s = .next (s.segEnds s.seg.data [.busStrobe 0x00] rest .transportFailure false))

/-- 40_segment.md R72: `SEG.setEnabled(true)` sends system setup with the oscillator on, then display setup with the
display on, and the lifecycle is ENABLED; a failed strobe ends it with the lifecycle UNKNOWN. What the lifecycle does
is the spec's own decision (92_eei_decisions.md D19, D23). The display-on setting has 0 in bits 1 and 2, which hold
the blink rate: enabling always sends rate 0 (70_reset_and_hazards.md R190). -/
def Obligations.SegEnableOscillatorThenDisplay : Prop :=
  ∀ (s : State) (rest : List Answer), s.seg.isIdle = true →
    let setup := Event.busStrobe (cmdByte Config.params.segCmdSystemSetup Config.params.segSetOscOn)
    let display := Event.busStrobe (cmdByte Config.params.segCmdDisplaySetup Config.params.segSetDisplayOn)
    (s.seg.port.answers = .complete :: .complete :: rest →
      exec (.segSetEnabled true) s =
        .next (s.segEnds { s.seg.data with life := .enabled } [setup, display] rest .ok false)) ∧
    (s.seg.port.answers = .complete :: .fail :: rest →
      exec (.segSetEnabled true) s =
        .next (s.segEnds { s.seg.data with life := .unknown } [setup, display] rest .transportFailure false)) ∧
    (s.seg.port.answers = .fail :: rest →
      exec (.segSetEnabled true) s =
        .next (s.segEnds { s.seg.data with life := .unknown } [setup] rest .transportFailure false)) ∧
    Config.params.segSetDisplayOn &&& 0b0110#4 = 0#4

/-- 40_segment.md R72: `SEG.setEnabled(false)` sends system setup with the oscillator off, then display setup with the
display off, and the lifecycle is DISABLED; a failed strobe ends it with the lifecycle UNKNOWN. The order when
disabling and what the lifecycle does are the spec's own decisions (92_eei_decisions.md D8, D19, D23). The display-off
setting has 0 in bits 1 and 2: it also carries blink rate 0 (70_reset_and_hazards.md R190). -/
def Obligations.SegDisableSendsOffPair : Prop :=
  ∀ (s : State) (rest : List Answer), s.seg.isIdle = true →
    let setup := Event.busStrobe (cmdByte Config.params.segCmdSystemSetup Config.params.segSetOscOff)
    let display := Event.busStrobe (cmdByte Config.params.segCmdDisplaySetup Config.params.segSetDisplayOff)
    (s.seg.port.answers = .complete :: .complete :: rest →
      exec (.segSetEnabled false) s =
        .next (s.segEnds { s.seg.data with life := .disabled } [setup, display] rest .ok false)) ∧
    (s.seg.port.answers = .complete :: .fail :: rest →
      exec (.segSetEnabled false) s =
        .next (s.segEnds { s.seg.data with life := .unknown } [setup, display] rest .transportFailure false)) ∧
    (s.seg.port.answers = .fail :: rest →
      exec (.segSetEnabled false) s =
        .next (s.segEnds { s.seg.data with life := .unknown } [setup] rest .transportFailure false)) ∧
    Config.params.segSetDisplayOff &&& 0b0110#4 = 0#4

/-- 40_segment.md R74: a rate in [0,3] is sent in bits 1 and 2 of a display-setup byte with the display-on bit set,
one strobe; any other 32-bit value is an invalid argument, with nothing sent. That the lifecycle stays is the spec's
own decision (92_eei_decisions.md D33). -/
def Obligations.SegBlinkRateSetsDisplayOn : Prop :=
  ∀ (s : State) (rate : Word) (rest : List Answer), s.seg.isIdle = true →
    let sent := Event.busStrobe (cmdByte Config.params.segCmdDisplaySetup
      (BitVec.ofNat 4 (2 * rate.toNat) ||| Config.params.segSetDisplayOn))
    (0 ≤ rate.toInt ∧ rate.toInt ≤ 3 →
      (s.seg.port.answers = .complete :: rest →
        exec (.segSetBlinkRate rate) s = .next (s.segEnds s.seg.data [sent] rest .ok false)) ∧
      (s.seg.port.answers = .fail :: rest →
        exec (.segSetBlinkRate rate) s = .next (s.segEnds s.seg.data [sent] rest .transportFailure false))) ∧
    (¬ (0 ≤ rate.toInt ∧ rate.toInt ≤ 3) →
      exec (.segSetBlinkRate rate) s = .next (s.segEnds s.seg.data [] s.seg.port.answers .invalidArgument false))

/-- 40_segment.md R75: a level in [0,15] is sent as the setting of one dimming-set strobe; any other 32-bit value is
an invalid argument, with nothing sent. -/
def Obligations.SegBrightnessSendsDimming : Prop :=
  ∀ (s : State) (level : Word) (rest : List Answer), s.seg.isIdle = true →
    let sent := Event.busStrobe (cmdByte Config.params.segCmdDimmingSet (BitVec.ofNat 4 level.toNat))
    (0 ≤ level.toInt ∧ level.toInt ≤ 15 →
      (s.seg.port.answers = .complete :: rest →
        exec (.segSetBrightness level) s = .next (s.segEnds s.seg.data [sent] rest .ok false)) ∧
      (s.seg.port.answers = .fail :: rest →
        exec (.segSetBrightness level) s = .next (s.segEnds s.seg.data [sent] rest .transportFailure false))) ∧
    (¬ (0 ≤ level.toInt ∧ level.toInt ≤ 15) →
      exec (.segSetBrightness level) s = .next (s.segEnds s.seg.data [] s.seg.port.answers .invalidArgument false))

/-- 40_segment.md R76: with both operands in [0,15] `SEG.execute` strobes register `16 * command + setting`; with
either outside it is an invalid argument, with nothing sent; no register changes. -/
def Obligations.SegExecuteStrobesCommandByte : Prop :=
  ∀ (s : State) (command setting : Word) (rest : List Answer), s.seg.isIdle = true →
    let legal := (0 ≤ command.toInt ∧ command.toInt ≤ 15) ∧ (0 ≤ setting.toInt ∧ setting.toInt ≤ 15)
    let sent := Event.busStrobe (BitVec.ofNat 8 (16 * command.toNat + setting.toNat))
    (legal →
      (s.seg.port.answers = .complete :: rest →
        exec (.segExecute command setting) s = .next (s.segEnds s.seg.data [sent] rest .ok false)) ∧
      (s.seg.port.answers = .fail :: rest →
        exec (.segExecute command setting) s = .next (s.segEnds s.seg.data [sent] rest .transportFailure false))) ∧
    (¬ legal →
      exec (.segExecute command setting) s =
        .next (s.segEnds s.seg.data [] s.seg.port.answers .invalidArgument false))

/-- 40_segment.md R77: with an index in [0,16) and a value in [0,255] `SEG.writeBuffer` writes that entry and no
other, and sends nothing; otherwise it is an invalid argument and nothing changes. The operation is the spec's own
(92_eei_decisions.md D7). -/
def Obligations.SegWriteBufferWritesOneEntry : Prop :=
  ∀ (s : State) (index value : Word), s.seg.isIdle = true →
    let legal := (0 ≤ index.toInt ∧ index.toInt ≤ 15) ∧ (0 ≤ value.toInt ∧ value.toInt ≤ 255)
    (legal → ∃ fb : Vector Byte 16,
      exec (.segWriteBuffer index value) s =
        .next (s.segEnds { s.seg.data with fb := fb } [] s.seg.port.answers .ok false) ∧
      ∀ j : Fin 16, fb[j] = if j.val = index.toNat then BitVec.ofNat 8 value.toNat else s.seg.data.fb[j]) ∧
    (¬ legal →
      exec (.segWriteBuffer index value) s =
        .next (s.segEnds s.seg.data [] s.seg.port.answers .invalidArgument false))

/-- 30_encoding.md R55: the command byte is `16 * command + setting`, and the map is one-to-one. -/
def Obligations.CommandByteJoinsNibbles : Prop :=
  (∀ command setting : Nibble, (cmdByte command setting).toNat = 16 * command.toNat + setting.toNat) ∧
  (∀ c c' v v' : Nibble, cmdByte c v = cmdByte c' v' → c = c' ∧ v = v')

/-- 30_encoding.md R55, R56: each encoding SEG emits is one strobe of its command byte, after which SEG goes on; the
meaning of a row of the table on its own is the model's choice (log entry 8). -/
def Obligations.SegEmittedStrobes : Prop :=
  ∀ (s : State) (rest : List Answer), s.seg.isIdle = true → s.seg.port.answers = .complete :: rest →
    let after (e : Event) : State := s.segEnds s.seg.data [e] rest .ok false
    (∀ c v : Nibble, exec (.segCmdbyte c v) s = .next (after (.busStrobe (BitVec.ofNat 8 (16 * c.toNat + v.toNat))))) ∧
    exec .segDisplayData s = .next (after (.busStrobe 0x00)) ∧
    exec (.segSystemSetup true) s =
      .next (after (.busStrobe (cmdByte Config.params.segCmdSystemSetup Config.params.segSetOscOn))) ∧
    exec (.segSystemSetup false) s =
      .next (after (.busStrobe (cmdByte Config.params.segCmdSystemSetup Config.params.segSetOscOff))) ∧
    (∀ rate : BitVec 2, exec (.segDisplaySetup rate true) s =
      .next (after (.busStrobe (cmdByte Config.params.segCmdDisplaySetup
        (BitVec.ofNat 4 (2 * rate.toNat) ||| Config.params.segSetDisplayOn))))) ∧
    exec (.segDisplaySetup 0 false) s =
      .next (after (.busStrobe (cmdByte Config.params.segCmdDisplaySetup Config.params.segSetDisplayOff))) ∧
    (∀ level : Nibble, exec (.segDimmingSet level) s =
      .next (after (.busStrobe (cmdByte Config.params.segCmdDimmingSet level))))

/-! ### MAT (41_matrix.md) -/

/-- 41_matrix.md R90: `MAT.clear` zero-fills the framebuffer and sends nothing. -/
def Obligations.MatClearZeroFills : Prop :=
  ∀ s : State, s.mat.isIdle = true →
    exec .matClear s =
      .next (s.matEnds { s.mat.data with fb := Vector.replicate 8 0 } [] s.mat.port.answers .ok false)

/-- 41_matrix.md R91: `MAT.refresh` sends the eight row frames in ascending order, and changes no register. The
ascending order is the spec's own decision (92_eei_decisions.md D9). -/
def Obligations.MatRefreshSendsEightRows : Prop :=
  ∀ (s : State) (rest : List Answer), s.mat.isIdle = true →
    let frames := (List.finRange 8).map (fun r =>
      Event.busFrame (Config.params.matCmdRowBase + BitVec.ofNat 8 r.val) s.mat.data.fb[r])
    (s.mat.port.answers = reliable 8 ++ rest →
      exec .matRefresh s = .next (s.matEnds s.mat.data frames rest .ok false)) ∧
    (∀ k : Fin 8, s.mat.port.answers = reliable k.val ++ .fail :: rest →
      exec .matRefresh s = .next (s.matEnds s.mat.data (frames.take (k.val + 1)) rest .transportFailure false))

/-- 41_matrix.md R92: `MAT.refreshRow` sends the frame of a row in [0,8); row 8 and every other value is an invalid
argument, with nothing sent. The strict bound is the spec's own decision (92_eei_decisions.md D10). -/
def Obligations.MatRefreshRowStrictBound : Prop :=
  ∀ (s : State) (row : Word) (rest : List Answer), s.mat.isIdle = true →
    (∀ r : Fin 8, row.toInt = r.val →
      let frame := Event.busFrame (Config.params.matCmdRowBase + BitVec.ofNat 8 r.val) s.mat.data.fb[r]
      (s.mat.port.answers = .complete :: rest →
        exec (.matRefreshRow row) s = .next (s.matEnds s.mat.data [frame] rest .ok false)) ∧
      (s.mat.port.answers = .fail :: rest →
        exec (.matRefreshRow row) s = .next (s.matEnds s.mat.data [frame] rest .transportFailure false))) ∧
    (¬ (0 ≤ row.toInt ∧ row.toInt < 8) →
      exec (.matRefreshRow row) s = .next (s.matEnds s.mat.data [] s.mat.port.answers .invalidArgument false))

/-- 41_matrix.md R93: enabling sends shutdown-run, decode-mode, scan-limit in that order, disabling sends
shutdown-hold only; the lifecycle follows, and is UNKNOWN after a failed frame, when no later frame is sent. What the
lifecycle does is the spec's own decision (92_eei_decisions.md D19, D23). -/
def Obligations.MatSetEnabledFrames : Prop :=
  ∀ (s : State) (rest : List Answer), s.mat.isIdle = true →
    let run := Event.busFrame Config.params.matCmdShutdown Config.params.matDataRun
    let decode := Event.busFrame Config.params.matCmdDecodeMode Config.params.matDataNoDecode
    let scan := Event.busFrame Config.params.matCmdScanLimit Config.params.matDataScanAll
    let hold := Event.busFrame Config.params.matCmdShutdown Config.params.matDataHold
    (s.mat.port.answers = reliable 3 ++ rest →
      exec (.matSetEnabled true) s =
        .next (s.matEnds { s.mat.data with life := .enabled } [run, decode, scan] rest .ok false)) ∧
    (∀ k : Fin 3, s.mat.port.answers = reliable k.val ++ .fail :: rest →
      exec (.matSetEnabled true) s =
        .next (s.matEnds { s.mat.data with life := .unknown } ([run, decode, scan].take (k.val + 1)) rest
          .transportFailure false)) ∧
    (s.mat.port.answers = .complete :: rest →
      exec (.matSetEnabled false) s =
        .next (s.matEnds { s.mat.data with life := .disabled } [hold] rest .ok false)) ∧
    (s.mat.port.answers = .fail :: rest →
      exec (.matSetEnabled false) s =
        .next (s.matEnds { s.mat.data with life := .unknown } [hold] rest .transportFailure false))

/-- 41_matrix.md R94: `MAT.setTestMode` sends one display-test frame and changes no register. -/
def Obligations.MatTestModeSendsOneFrame : Prop :=
  ∀ (s : State) (enabled : Bool) (rest : List Answer), s.mat.isIdle = true →
    let sent := Event.busFrame Config.params.matCmdDisplayTest
      (match enabled with
        | true => Config.params.matDataTestOn
        | false => Config.params.matDataTestOff)
    (s.mat.port.answers = .complete :: rest →
      exec (.matSetTestMode enabled) s = .next (s.matEnds s.mat.data [sent] rest .ok false)) ∧
    (s.mat.port.answers = .fail :: rest →
      exec (.matSetTestMode enabled) s = .next (s.matEnds s.mat.data [sent] rest .transportFailure false))

/-- 41_matrix.md R95: a level in [0,15] is the data byte of one intensity frame; any other 32-bit value is an invalid
argument, with nothing sent. -/
def Obligations.MatBrightnessSendsIntensity : Prop :=
  ∀ (s : State) (level : Word) (rest : List Answer), s.mat.isIdle = true →
    let sent := Event.busFrame Config.params.matCmdIntensity (BitVec.ofNat 8 level.toNat)
    (0 ≤ level.toInt ∧ level.toInt ≤ 15 →
      (s.mat.port.answers = .complete :: rest →
        exec (.matSetBrightness level) s = .next (s.matEnds s.mat.data [sent] rest .ok false)) ∧
      (s.mat.port.answers = .fail :: rest →
        exec (.matSetBrightness level) s = .next (s.matEnds s.mat.data [sent] rest .transportFailure false))) ∧
    (¬ (0 ≤ level.toInt ∧ level.toInt ≤ 15) →
      exec (.matSetBrightness level) s = .next (s.matEnds s.mat.data [] s.mat.port.answers .invalidArgument false))

/-- 41_matrix.md R96: inside the grid `MAT.setPixel` gives bit `7 - x` of row `y` the value of `enabled`, leaves every
other pixel, and sends nothing; outside it the request is refused. The refusal is the spec's own decision
(92_eei_decisions.md D11, 93_implementation_defined.md U1). That a pixel outside the grid is refused as such even
while MAT is busy, before the busy unit refuses it, is the model's choice (log entry 10). -/
def Obligations.MatSetPixelChangesOnePixel : Prop :=
  ∀ (s : State) (x y : Word) (enabled : Bool),
    (s.mat.isIdle = true → (0 ≤ x.toInt ∧ x.toInt < 8) ∧ (0 ≤ y.toInt ∧ y.toInt < 8) →
      ∃ fb : Vector Byte 8,
        exec (.matSetPixel x y enabled) s =
          .next (s.matEnds { s.mat.data with fb := fb } [] s.mat.port.answers .ok false) ∧
        ∀ x' y' : Fin 8, fb[y'].getLsbD (7 - x'.val) =
          if x'.val = x.toNat ∧ y'.val = y.toNat then enabled else s.mat.data.fb[y'].getLsbD (7 - x'.val)) ∧
    (¬ ((0 ≤ x.toInt ∧ x.toInt < 8) ∧ (0 ≤ y.toInt ∧ y.toInt < 8)) →
      exec (.matSetPixel x y enabled) s = .refused .outsidePrecondition)

/-- 41_matrix.md R97: inside the grid `MAT.getPixel` answers bit `7 - x` of row `y`, changes no register and sends
nothing; outside it the request is refused. The refusal is the spec's own decision (92_eei_decisions.md D11,
93_implementation_defined.md U1). That a pixel outside the grid is refused as such even while MAT is busy, before the
busy unit refuses it, is the model's choice (log entry 10). -/
def Obligations.MatGetPixelReadsOnePixel : Prop :=
  ∀ (s : State) (x y : Word),
    (∀ x' y' : Fin 8, s.mat.isIdle = true → x.toInt = x'.val → y.toInt = y'.val →
      exec (.matGetPixel x y) s =
        .next (s.matEnds s.mat.data [] s.mat.port.answers .ok (s.mat.data.fb[y'].getLsbD (7 - x'.val)))) ∧
    (¬ ((0 ≤ x.toInt ∧ x.toInt < 8) ∧ (0 ≤ y.toInt ∧ y.toInt < 8)) →
      exec (.matGetPixel x y) s = .refused .outsidePrecondition)

/-- 95_test_vectors.md S3: a pixel set is read back as it was set, and no other pixel reads differently. -/
def Obligations.PixelReadsBackAsSet : Prop :=
  ∀ (s t : State) (x y x' y' : Word) (enabled : Bool) (u v : State),
    exec (.matSetPixel x y enabled) s = .next t →
    exec (.matGetPixel x' y') t = .next u → exec (.matGetPixel x' y') s = .next v →
    u.mat.port.value = if x' = x ∧ y' = y then enabled else v.mat.port.value

/-- 30_encoding.md R57, 20_memory.md R37 (b): each encoding MAT emits is one frame of its command and data byte; the
meaning of a row of the table on its own is the model's choice (log entry 8). The level of an intensity frame is in
[0,15], the only levels the spec gives (20_memory.md R37 b). -/
def Obligations.MatEmittedFrames : Prop :=
  ∀ (s : State) (rest : List Answer), s.mat.isIdle = true → s.mat.port.answers = .complete :: rest →
    let after (cmd data : Byte) : State := s.matEnds s.mat.data [.busFrame cmd data] rest .ok false
    (∀ row : BitVec 3, exec (.matRow row) s =
      .next (after (Config.params.matCmdRowBase + BitVec.ofNat 8 row.toNat) s.mat.data.fb[row.toNat])) ∧
    exec (.matShutdown true) s = .next (after Config.params.matCmdShutdown Config.params.matDataRun) ∧
    exec (.matShutdown false) s = .next (after Config.params.matCmdShutdown Config.params.matDataHold) ∧
    exec .matDecodeMode s = .next (after Config.params.matCmdDecodeMode Config.params.matDataNoDecode) ∧
    exec .matScanLimit s = .next (after Config.params.matCmdScanLimit Config.params.matDataScanAll) ∧
    (∀ level : Byte, level.toNat ≤ 15 →
      exec (.matIntensity level) s = .next (after Config.params.matCmdIntensity level)) ∧
    exec (.matDisplayTest true) s = .next (after Config.params.matCmdDisplayTest Config.params.matDataTestOn) ∧
    exec (.matDisplayTest false) s = .next (after Config.params.matCmdDisplayTest Config.params.matDataTestOff)

/-- 30_encoding.md R57: the row command is the base plus the row with no wrap-around, and an observer reads the row
back from the frame. -/
def Obligations.RowCommandDoesNotWrap : Prop :=
  ∀ (p : Params) (row : BitVec 3) (data : Byte), p.Valid →
    (rowCommand p row).toNat = p.matCmdRowBase.toNat + row.toNat ∧
    readEvent p (.busFrame (rowCommand p row) data) = some (.matRow row)

/-! ### LCD (42_lcd.md) -/

/-- 42_lcd.md R110: `LCD.setPin` changes one bit of the latch, writes the whole latch and waits one pulse; after a
failed write the latch keeps its new value and the device's is unknown; after an interrupted delay the two agree;
either exception leaves the lifecycle UNKNOWN. The order inside it, the state after a failed write and an interrupted
delay are the spec's own decisions (92_eei_decisions.md D12, D19, D20). -/
def Obligations.LcdSetPinWritesThenWaits : Prop :=
  ∀ (s : State) (pin : BitVec 3) (level : Bool) (rest : List Answer) (latch : Byte), s.lcd.isIdle = true →
    (∀ q : Fin 8, latch.getLsbD q.val = if q.val = pin.toNat then level else s.lcd.data.latch.getLsbD q.val) →
    let write := Event.busReg Config.params.lcdRegLatch latch
    (s.lcd.port.answers = .complete :: .complete :: rest →
      exec (.lcdSetPin pin level) s =
        .next (s.lcdEnds { s.lcd.data with latch := latch, dev := some latch } [write, .delay .pulse] rest .ok false)) ∧
    (s.lcd.port.answers = .fail :: rest →
      exec (.lcdSetPin pin level) s =
        .next (s.lcdEnds { latch := latch, dev := none, life := .unknown } [write] rest .transportFailure false)) ∧
    (s.lcd.port.answers = .complete :: .fail :: rest →
      exec (.lcdSetPin pin level) s =
        .next (s.lcdEnds { latch := latch, dev := some latch, life := .unknown } [write, .delay .pulse] rest
          .interrupted false))

/-- 42_lcd.md R112: the enable pulse writes enable low, high, low, each write followed by its delay. The number of
delays is the spec's own decision (92_eei_decisions.md D12). -/
def Obligations.LcdPulseIsLowHighLow : Prop :=
  ∀ (s : State) (rest : List Answer), s.lcd.isIdle = true →
    s.lcd.port.answers = reliable 6 ++ rest →
    let en := 1#8 <<< Config.params.lcdPinEn.toNat
    let low := s.lcd.data.latch &&& ~~~en
    let high := s.lcd.data.latch ||| en
    let w (v : Byte) : List Event := [.busReg Config.params.lcdRegLatch v, .delay .pulse]
    exec .lcdPulseEnable s =
      .next (s.lcdEnds { s.lcd.data with latch := low, dev := some low } (w low ++ w high ++ w low) rest .ok false)

/-- 42_lcd.md R113: `LCD.write8` makes 15 latch writes in the fixed order register select, upper nibble on the data
lines, enable low-high-low, lower nibble, enable low-high-low. The line order and the RS polarity are the spec's own
decisions (92_eei_decisions.md D13, D14). -/
def Obligations.LcdWrite8FifteenWrites : Prop :=
  ∀ (s : State) (byte : Byte) (mode : Bool) (rest : List Answer), s.lcd.isIdle = true →
    s.lcd.port.answers = reliable 30 ++ rest →
    let p := Config.params
    let writes : List (BitVec 3 × Bool) :=
      [(p.lcdPinRs, mode),
       (p.lcdPinD0, byte.getLsbD 4), (p.lcdPinD1, byte.getLsbD 5), (p.lcdPinD2, byte.getLsbD 6),
       (p.lcdPinD3, byte.getLsbD 7),
       (p.lcdPinEn, false), (p.lcdPinEn, true), (p.lcdPinEn, false),
       (p.lcdPinD0, byte.getLsbD 0), (p.lcdPinD1, byte.getLsbD 1), (p.lcdPinD2, byte.getLsbD 2),
       (p.lcdPinD3, byte.getLsbD 3),
       (p.lcdPinEn, false), (p.lcdPinEn, true), (p.lcdPinEn, false)]
    let latch := latchAfter s.lcd.data.latch writes
    exec (.lcdWrite8 byte mode) s =
      .next (s.lcdEnds { s.lcd.data with latch := latch, dev := some latch }
        (pinEvents p s.lcd.data.latch writes) rest .ok false)

/-- 42_lcd.md R114: `LCD.command(byte)` does what `LCD.write8(byte, false)` does, whatever the answers, as soon as the
environment has answered to the end; and with 30 good answers it completes. That the command path is this is the
spec's own decision (92_eei_decisions.md D16). -/
def Obligations.LcdCommandIsWrite8InCommandMode : Prop :=
  (∀ (s t : State) (byte : Byte), exec (.lcdCommand byte) s = .next t → t.lcd.isIdle = true →
    exec (.lcdWrite8 byte false) s = .next t) ∧
  (∀ (s : State) (byte : Byte) (rest : List Answer), s.lcd.isIdle = true → s.lcd.port.answers = reliable 30 ++ rest →
    ∃ t, exec (.lcdCommand byte) s = .next t ∧ t.lcd.isIdle = true ∧ t.lcd.port.status = .ok)

/-- 42_lcd.md R115: `LCD.init` writes the direction register once and first, then makes the pin writes of the
backlight, the two wake-up bytes, the three composed commands and clear display, waits the settle time, sends return
home and waits again; LCD is then READY. The modes, the composition and order of the commands and the missing delay
after the direction write are the spec's own decisions (92_eei_decisions.md D14 to D17). -/
def Obligations.LcdInitRunsWholeSequence : Prop :=
  ∀ (s : State) (rest : List Answer), s.lcd.isIdle = true → s.lcd.port.answers = reliable 215 ++ rest →
    let p := Config.params
    let first := (p.lcdPinBacklight, true) :: write8Pins p p.lcdWake1 false ++ write8Pins p p.lcdWake2 false ++
      write8Pins p p.initDisplayControl false ++ write8Pins p p.initFunctionSet false ++
      write8Pins p p.initEntryMode false ++ write8Pins p p.lcdCmdClearDisplay false
    let home := write8Pins p p.lcdCmdReturnHome false
    let middle := latchAfter s.lcd.data.latch first
    let last := latchAfter middle home
    exec .lcdInit s =
      .next (s.lcdEnds { latch := last, dev := some last, life := .ready }
        ([.busReg p.lcdRegDirection p.lcdDirAllOutput] ++ pinEvents p s.lcd.data.latch first ++ [.delay .settle] ++
          pinEvents p middle home ++ [.delay .settle]) rest .ok false)

/-- 42_lcd.md R115, 60_exceptions.md R142, R143, R147, R148: whichever of the 215 answers is the first bad one,
`LCD.init` ends there with the events up to that call and the lifecycle UNKNOWN. A failed direction write leaves latch
and device as they were; a failed latch write leaves the value written in the latch and the device unknown; an
interrupted pulse or settle delay leaves the last latch value sent in both. The sequence and the state after a failure
and an interruption are the spec's own decisions (92_eei_decisions.md D12 to D17, D19, D20). -/
def Obligations.LcdInitStopsAtFailedDirection : Prop :=
  ∀ (s : State) (k : Nat) (rest : List Answer), s.lcd.isIdle = true →
    s.lcd.port.answers = reliable k ++ .fail :: rest →
    let p := Config.params
    let all := initEvents p s.lcd.data.latch
    let sent := all.take (k + 1)
    let latch := (latchValues p sent).getLastD s.lcd.data.latch
    all.length = 215 ∧
    (k = 0 →
      exec .lcdInit s =
        .next (s.lcdEnds { s.lcd.data with life := .unknown } [.busReg p.lcdRegDirection p.lcdDirAllOutput] rest
          .transportFailure false)) ∧
    (∀ v, all[k]? = some (.busReg p.lcdRegLatch v) →
      exec .lcdInit s =
        .next (s.lcdEnds { latch := v, dev := none, life := .unknown } sent rest .transportFailure false)) ∧
    (∀ kind, all[k]? = some (.delay kind) →
      exec .lcdInit s =
        .next (s.lcdEnds { latch := latch, dev := some latch, life := .unknown } sent rest .interrupted false))

/-- 42_lcd.md R110 to R116: the operations that make nothing but pin writes, a message of any length among them, put
out one `W(v)` for each, and leave the device in agreement with the latch. One write and one delay per pin write, the
line order, the polarity of register select and the command path are the spec's own decisions (92_eei_decisions.md
D12, D13, D14, D16). -/
def Obligations.LcdPinOperationsComplete : Prop :=
  ∀ (i : Instr) (writes : List (BitVec 3 × Bool)) (s : State) (rest : List Answer),
    pinWritesOf Config.params i = some writes → s.lcd.isIdle = true →
    s.lcd.port.answers = reliable (2 * writes.length) ++ rest →
    let latch := latchAfter s.lcd.data.latch writes
    exec i s =
      .next (s.lcdEnds
        { s.lcd.data with latch := latch, dev := if writes = [] then s.lcd.data.dev else some latch }
        (pinEvents Config.params s.lcd.data.latch writes) rest .ok false)

/-- 60_exceptions.md R142, R143, R147, 42_lcd.md R110 to R116: whichever answer is the first bad one, the operation
ends with the events up to that call; a failed latch write leaves the new latch and an unknown device value, an
interrupted delay leaves the two in agreement; the lifecycle is UNKNOWN. The state after a failed write and an
interrupted delay are the spec's own decisions (92_eei_decisions.md D19, D20). So are the pin writes themselves (D12,
D13, D14, D16). -/
def Obligations.LcdPinOperationsStopAtBadAnswer : Prop :=
  ∀ (i : Instr) (writes : List (BitVec 3 × Bool)) (s : State) (k : Nat) (rest : List Answer),
    pinWritesOf Config.params i = some writes → s.lcd.isIdle = true → k < 2 * writes.length →
    s.lcd.port.answers = reliable k ++ .fail :: rest →
    let latch := latchAfter s.lcd.data.latch (writes.take (k / 2 + 1))
    exec i s =
      .next (s.lcdEnds
        { latch := latch, dev := if k % 2 = 0 then none else some latch, life := .unknown }
        ((pinEvents Config.params s.lcd.data.latch writes).take (k + 1)) rest
        (if k % 2 = 0 then .transportFailure else .interrupted) false)

/-- 30_encoding.md R59, R60, 42_lcd.md R115: the encodings LCD emits: the latch write, the direction write, and a
logical command, which is the 15 latch writes of its byte in command mode; the meaning of a row of the table on its
own is the model's choice (log entry 8). One write and one delay per pin write, the line order, the polarity of
register select and the command path are the spec's own decisions (92_eei_decisions.md D12, D13, D14, D16). That the
direction write has no delay is D17. -/
def Obligations.LcdEmittedWrites : Prop :=
  ∀ (s : State) (rest : List Answer), s.lcd.isIdle = true →
    (s.lcd.port.answers = .complete :: rest →
      exec .lcdLatch s =
        .next (s.lcdEnds { s.lcd.data with dev := some s.lcd.data.latch }
          [.busReg Config.params.lcdRegLatch s.lcd.data.latch] rest .ok false) ∧
      exec .lcdDirection s =
        .next (s.lcdEnds s.lcd.data [.busReg Config.params.lcdRegDirection Config.params.lcdDirAllOutput] rest
          .ok false)) ∧
    (∀ byte : Byte, s.lcd.port.answers = reliable 30 ++ rest →
      let writes := write8Pins Config.params byte false
      let latch := latchAfter s.lcd.data.latch writes
      exec (.lcdLogicalCommand byte) s =
        .next (s.lcdEnds { s.lcd.data with latch := latch, dev := some latch }
          (pinEvents Config.params s.lcd.data.latch writes) rest .ok false))

/-- 42_lcd.md R113, R117, 95_test_vectors.md section 2.3: with enable low before, what the display is strobed by
`LCD.write8` is the byte's upper nibble and then its lower nibble, with the mode on register select, and enable is low
after: no bit of the byte is lost in the two half-transfers. Which bit drives which line and the polarity of register
select are the spec's own decisions (92_eei_decisions.md D13, D14). -/
def Obligations.LcdTransferRecoversByte : Prop :=
  ∀ (s : State) (byte : Byte) (mode : Bool) (rest : List Answer), s.lcd.isIdle = true →
    enableLow Config.params s → s.lcd.port.answers = reliable 30 ++ rest →
    ∃ (t : State) (es : List Event),
      exec (.lcdWrite8 byte mode) s = .next t ∧ t.lcd.port.trace = s.lcd.port.trace ++ es ∧
      strobed Config.params (latchValues Config.params es) = halves mode byte ∧ enableLow Config.params t

/-- 42_lcd.md R116: with enable low before, what the display is strobed by `LCD.message` is the text, each character
in order as two half-transfers in character mode. Which bit drives which line and the polarity of register select are
the spec's own decisions (92_eei_decisions.md D13, D14). -/
def Obligations.LcdMessageTransmitsText : Prop :=
  ∀ (s : State) (text : List Byte) (rest : List Answer), s.lcd.isIdle = true →
    enableLow Config.params s → s.lcd.port.answers = reliable (30 * text.length) ++ rest →
    ∃ (t : State) (es : List Event),
      exec (.lcdMessage text) s = .next t ∧ t.lcd.port.trace = s.lcd.port.trace ++ es ∧
      strobed Config.params (latchValues Config.params es) = text.flatMap (halves true) ∧ enableLow Config.params t

/-- 42_lcd.md R115, 95_test_vectors.md section 3.4: with enable low before, what the display is strobed by `LCD.init`
is the seven bytes of the sequence in command mode, in order; the backlight is on after. The lines, the polarities,
the mode of the wake-up bytes and the composition and order of the commands are the spec's own decisions
(92_eei_decisions.md D13 to D16). -/
def Obligations.LcdInitTransmitsSequence : Prop :=
  ∀ (s : State) (rest : List Answer), s.lcd.isIdle = true →
    enableLow Config.params s → s.lcd.port.answers = reliable 215 ++ rest →
    let p := Config.params
    ∃ (t : State) (es : List Event),
      exec .lcdInit s = .next t ∧ t.lcd.port.trace = s.lcd.port.trace ++ es ∧
      strobed p (latchValues p es) =
        [p.lcdWake1, p.lcdWake2, p.initDisplayControl, p.initFunctionSet, p.initEntryMode, p.lcdCmdClearDisplay,
          p.lcdCmdReturnHome].flatMap (halves false) ∧
      enableLow p t ∧ pinLevel t.lcd.data.latch p.lcdPinBacklight = true

/-- 42_lcd.md R117 (b): whatever the environment answers, each latch write differs from the latch before it in at most
one bit. -/
def Obligations.LcdLatchMovesOneBitAtATime : Prop :=
  ∀ (i : Instr) (s t : State) (es : List Event), i.unit = .lcd → exec i s = .next t →
    t.lcd.port.trace = s.lcd.port.trace ++ es →
    OneBitSteps (s.lcd.data.latch :: latchValues Config.params es)

/-- 10_state.md R12, 42_lcd.md R117 (e): no operation but `LCD.setPin` changes the unused pin, and none but
`LCD.setPin` and `LCD.init` changes the backlight. -/
def Obligations.LcdUnusedAndBacklightKept : Prop :=
  ∀ (i : Instr) (s t : State), exec i s = .next t → (∀ pin level, i ≠ .lcdSetPin pin level) →
    (∀ q, Config.params.unusedPin = some q → pinLevel t.lcd.data.latch q = pinLevel s.lcd.data.latch q) ∧
    (i ≠ .lcdInit →
      pinLevel t.lcd.data.latch Config.params.lcdPinBacklight = pinLevel s.lcd.data.latch Config.params.lcdPinBacklight)

/-! ### Exceptions and responses (60_exceptions.md, 30_encoding.md) -/

/-- 60_exceptions.md R141, R146: an invalid argument is found before anything is sent: the trace, the registers and
the answers are as before. -/
def Obligations.InvalidArgumentChangesNothing : Prop :=
  ∀ (i : Instr) (s t : State), exec i s = .next t → (t.portOf i.unit).seq = .idle →
    (t.portOf i.unit).status = .invalidArgument →
    (t.portOf i.unit).trace = (s.portOf i.unit).trace ∧ (t.portOf i.unit).answers = (s.portOf i.unit).answers ∧
    t.seg.data = s.seg.data ∧ t.mat.data = s.mat.data ∧ t.lcd.data = s.lcd.data

/-- 60_exceptions.md R148: a transport failure in `SEG.setEnabled` or `MAT.setEnabled`, and any exception in an LCD
operation, leaves that unit's lifecycle UNKNOWN; any other exception leaves it; framebuffers are never changed by an
exception. The lifecycle after an exception is the spec's own decision (92_eei_decisions.md D19). -/
def Obligations.LifecycleAfterException : Prop :=
  ∀ (i : Instr) (s t : State), exec i s = .next t → (t.portOf i.unit).seq = .idle → (t.portOf i.unit).status ≠ .ok →
    t.seg.data.fb = s.seg.data.fb ∧ t.mat.data.fb = s.mat.data.fb ∧
    (t.seg.data.life = if ∃ e, i = .segSetEnabled e then .unknown else s.seg.data.life) ∧
    (t.mat.data.life = if ∃ e, i = .matSetEnabled e then .unknown else s.mat.data.life) ∧
    (t.lcd.data.life = if i.unit = .lcd then .unknown else s.lcd.data.life)

/-- 30_encoding.md R54, 10_state.md R17: an operation that has ended has given exactly one response, which is also in
the result registers; its value is 0 unless the operation is `MAT.getPixel` and the status is OK. The response port is
the spec's own decision (92_eei_decisions.md D4). -/
def Obligations.OneResponsePerOperation : Prop :=
  ∀ (i : Instr) (s t : State), exec i s = .next t → (t.portOf i.unit).seq = .idle →
    (t.portOf i.unit).responses =
      (s.portOf i.unit).responses ++ [⟨(t.portOf i.unit).status, (t.portOf i.unit).value⟩] ∧
    ((t.portOf i.unit).value = true → (t.portOf i.unit).status = .ok ∧ ∃ x y, i = .matGetPixel x y)

/-- 20_memory.md R30, R35: an operation whose call has not been answered has the event of that outstanding call last
in its trace, has given no response, and keeps its unit busy with itself. -/
def Obligations.UnansweredCallKeepsUnitBusy : Prop :=
  ∀ (i : Instr) (s t : State), exec i s = .next t → (t.portOf i.unit).seq ≠ .idle →
    (∃ k, (t.portOf i.unit).seq = .busy i k) ∧
    (t.portOf i.unit).responses = (s.portOf i.unit).responses ∧
    (t.portOf i.unit).status = (s.portOf i.unit).status ∧ (t.portOf i.unit).value = (s.portOf i.unit).value ∧
    ∃ es e, (t.portOf i.unit).trace = (s.portOf i.unit).trace ++ es ++ [e] ∧
      t.outstanding Config.params i.unit = some e

/-- 60_exceptions.md R144: under any answers, the events of an operation are the first ones of those it has on a
reliable bus. -/
def Obligations.TraceBeginsReliableTrace : Prop :=
  ∀ (i : Instr) (s t : State), exec i s = .next t →
    ∃ (n : Nat) (t' : State), exec i (s.withAnswers i.unit (reliable n)) = .next t' ∧
      (t'.portOf i.unit).seq = .idle ∧ (t.portOf i.unit).trace <+: (t'.portOf i.unit).trace

/-- 10_state.md R20 ("the two views give the same traces"): an operation that waits and goes on when further answers
come ends in the same state as if all the answers had been there. That the two views give the same is the spec's own
decision (92_eei_decisions.md D6). -/
def Obligations.AnswersInPiecesOrAtOnce : Prop :=
  ∀ (i : Instr) (s t : State) (early late : List Answer),
    exec i (s.withAnswers i.unit early) = .next t → (t.portOf i.unit).seq ≠ .idle → late ≠ [] →
    s.requests = [] → (∀ u, u ≠ i.unit → s.answerReady u = false) →
    step (t.withAnswers i.unit late) = exec i (s.withAnswers i.unit (early ++ late))

/-- 00_scope.md R5, 93_implementation_defined.md U7: a unit with an operation in progress is handed no other; `exec`
refuses, by name. -/
def Obligations.BusyUnitIsHandedNothing : Prop :=
  ∀ (i : Instr) (s : State), s.unitIdle i.unit = false →
    exec i s = .refused .unitBusy ∨
      (exec i s = .refused .outsidePrecondition ∧
        ∃ x y, pixelInGrid x y = false ∧ (i = .matGetPixel x y ∨ ∃ e, i = .matSetPixel x y e))

/-- 30_encoding.md R53: the codes of the five statuses. The codes are the spec's own decision (92_eei_decisions.md
D4). -/
def Obligations.StatusCodesAsListed : Prop :=
  statusCode .ok = 0#4 ∧ statusCode .invalidArgument = 1#4 ∧ statusCode .transportFailure = 2#4 ∧
  statusCode .interrupted = 3#4 ∧ statusCode .unknownOperation = 4#4 ∧
  (∀ st st', statusCode st = statusCode st' → st = st')

/-! ### Frames and independence -/

/-- 00_scope.md R6: no unit writes the state or the bus of another: an operation of one unit leaves the other two,
their traces among them, as they are; and none reads the state of another: what an operation does to its unit is the
same in every state that agrees on that unit. A step, one that goes on with an operation among them, changes at most
one unit. -/
def Obligations.UnitsAreIndependent : Prop :=
  (∀ (i : Instr) (s t : State), exec i s = .next t →
    (i.unit ≠ .seg → t.seg = s.seg) ∧ (i.unit ≠ .mat → t.mat = s.mat) ∧ (i.unit ≠ .lcd → t.lcd = s.lcd) ∧
    t.requests = s.requests ∧ t.decoderResponses = s.decoderResponses ∧
    (∀ s' : State,
      (i.unit = .seg → s'.seg = s.seg → exec i s' = .next { s' with seg := t.seg }) ∧
      (i.unit = .mat → s'.mat = s.mat → exec i s' = .next { s' with mat := t.mat }) ∧
      (i.unit = .lcd → s'.lcd = s.lcd → exec i s' = .next { s' with lcd := t.lcd }))) ∧
  (∀ s t : State, step s = .next t →
    (t.mat = s.mat ∧ t.lcd = s.lcd) ∨ (t.seg = s.seg ∧ t.lcd = s.lcd) ∨ (t.seg = s.seg ∧ t.mat = s.mat))

/-- 40_segment.md R73 (d), 41_matrix.md R98 (d), 10_state.md R16: which operations change which registers. That the
lifecycles are kept so is the spec's own decision (92_eei_decisions.md D23, D33). -/
def Obligations.RegistersChangedOnlyByTheirOperations : Prop :=
  ∀ (i : Instr) (s t : State), exec i s = .next t →
    (t.seg.data.fb ≠ s.seg.data.fb → i = .segClear ∨ ∃ k v, i = .segWriteBuffer k v) ∧
    (t.seg.data.life ≠ s.seg.data.life → ∃ e, i = .segSetEnabled e) ∧
    (t.mat.data.fb ≠ s.mat.data.fb → i = .matClear ∨ ∃ x y e, i = .matSetPixel x y e) ∧
    (t.mat.data.life ≠ s.mat.data.life → ∃ e, i = .matSetEnabled e) ∧
    (t.lcd.data.life = .ready → s.lcd.data.life = .ready ∨ i = .lcdInit)

/-- 40_segment.md R73, 41_matrix.md R98, 42_lcd.md R117: the number of transactions of each request that returns
OK. -/
def Obligations.TransactionCountsOnSuccess : Prop :=
  ∀ (i : Instr) (s t : State) (es : List Event), exec i s = .next t → i.isRequest = true →
    (t.portOf i.unit).seq = .idle → (t.portOf i.unit).status = .ok →
    (t.portOf i.unit).trace = (s.portOf i.unit).trace ++ es →
    match i with
    | .segClear => transactions es = 0
    | .segWriteBuffer _ _ => transactions es = 0
    | .segSetBlinkRate _ => transactions es = 1
    | .segSetBrightness _ => transactions es = 1
    | .segExecute _ _ => transactions es = 1
    | .segRefresh => transactions es = 2
    | .segSetEnabled _ => transactions es = 2
    | .matClear => transactions es = 0
    | .matSetPixel _ _ _ => transactions es = 0
    | .matGetPixel _ _ => transactions es = 0
    | .matRefreshRow _ => transactions es = 1
    | .matSetTestMode _ => transactions es = 1
    | .matSetBrightness _ => transactions es = 1
    | .matSetEnabled enabled => transactions es = if enabled then 3 else 1
    | .matRefresh => transactions es = 8
    | .lcdSetPin _ _ => transactions es = 1
    | .lcdPulseEnable => transactions es = 3
    | .lcdWrite8 _ _ => transactions es = 15
    | .lcdCommand _ => transactions es = 15
    | .lcdMessage text => transactions es = 15 * text.length
    | .lcdInit => transactions es = 107
    | _ => True

/-- 70_reset_and_hazards.md R192: a byte transfer takes at least 15 pulse delays, the initialization at least 106
pulse delays and two settle delays. The number of delays is the spec's own decision (92_eei_decisions.md D12, D17). -/
def Obligations.LeastTimesOfTransfers : Prop :=
  ∀ (i : Instr) (s t : State) (es : List Event), exec i s = .next t → t.lcd.port.seq = .idle →
    t.lcd.port.status = .ok → t.lcd.port.trace = s.lcd.port.trace ++ es →
    (∀ byte mode, i = .lcdWrite8 byte mode → 15 * Config.params.tPulse ≤ leastTraceTime Config.params es) ∧
    (i = .lcdInit → 106 * Config.params.tPulse + 2 * Config.params.tSettle ≤ leastTraceTime Config.params es)

/-! ### Encodings and the step -/

/-- 30_encoding.md R50 to R52: every operation has a request that decodes to it; an emitted encoding has no request,
and no request decodes to it; a request that decodes to an operation agrees with the operation's own request in the
opcode and in every operand the operation uses, a `u8` operand in bits 7:0 of `a` and a `u3` operand in bits 2:0; bits
31:8 of a `u8` operand (0x31, 0x35) and bits 31:3 of a `u3` operand (0x33) are ignored; and so are the fields an
operation does not use: `text` outside 0x32, `flag` outside 0x12, 0x22, 0x23, 0x25, 0x31 and 0x33, `b` outside 0x15,
0x16, 0x25 and 0x26, `a` outside 0x13 to 0x16, 0x24 to 0x27, 0x31, 0x33 and 0x35. The request format is the spec's own
decision (92_eei_decisions.md D2). -/
def Obligations.DecodeInvertsEncode : Prop :=
  (∀ i : Instr, i.isRequest = true → ∃ r, encode i = some r ∧ decode r = .operation i) ∧
  (∀ i : Instr, i.isRequest = false → encode i = none ∧ ∀ r, decode r ≠ .operation i) ∧
  (∀ (r : Request) (i : Instr), decode r = .operation i →
    ∃ r', encode i = some r' ∧ r'.opcode = r.opcode ∧
      (r.opcode ∈ ([0x13, 0x14, 0x15, 0x16, 0x24, 0x25, 0x26, 0x27] : List Byte) → r'.a = r.a) ∧
      (r.opcode ∈ ([0x31, 0x35] : List Byte) → r'.a = BitVec.ofNat 32 (r.a.toNat % 2 ^ 8)) ∧
      (r.opcode = 0x33 → r'.a = BitVec.ofNat 32 (r.a.toNat % 2 ^ 3)) ∧
      (r.opcode ∈ ([0x15, 0x16, 0x25, 0x26] : List Byte) → r'.b = r.b) ∧
      (r.opcode ∈ ([0x12, 0x22, 0x23, 0x25, 0x31, 0x33] : List Byte) → r'.flag = r.flag) ∧
      (r.opcode = 0x32 → r'.text = r.text)) ∧
  (∀ (r : Request) (a : Word), r.opcode ∈ ([0x31, 0x35] : List Byte) → a.toNat % 2 ^ 8 = r.a.toNat % 2 ^ 8 →
    decode { r with a := a } = decode r) ∧
  (∀ (r : Request) (a : Word), r.opcode = 0x33 → a.toNat % 2 ^ 3 = r.a.toNat % 2 ^ 3 →
    decode { r with a := a } = decode r) ∧
  (∀ (r : Request) (text : List Byte), r.opcode ≠ 0x32 → decode { r with text := text } = decode r) ∧
  (∀ (r : Request) (flag : Bool), r.opcode ∉ ([0x12, 0x22, 0x23, 0x25, 0x31, 0x33] : List Byte) →
    decode { r with flag := flag } = decode r) ∧
  (∀ (r : Request) (b : Word), r.opcode ∉ ([0x15, 0x16, 0x25, 0x26] : List Byte) →
    decode { r with b := b } = decode r) ∧
  (∀ (r : Request) (a : Word),
    r.opcode ∉ ([0x13, 0x14, 0x15, 0x16, 0x24, 0x25, 0x26, 0x27, 0x31, 0x33, 0x35] : List Byte) →
    decode { r with a := a } = decode r)

/-- 30_encoding.md R61: the reserved opcodes are exactly 0x00 to 0x0F, 0x17 to 0x1F, 0x28 to 0x2F and 0x36 to 0xFF. -/
def Obligations.ReservedOpcodesAsListed : Prop :=
  ∀ r : Request, decode r = .reserved r.opcode ↔
    r.opcode.toNat < 0x10 ∨ (0x17 ≤ r.opcode.toNat ∧ r.opcode.toNat < 0x20) ∨
      (0x28 ≤ r.opcode.toNat ∧ r.opcode.toNat < 0x30) ∨ 0x36 ≤ r.opcode.toNat

/-- 30_encoding.md R61: a reserved opcode is answered UNKNOWN_OPERATION with value 0, by the unit its high nibble
names, whose result registers it overwrites, or by the decoder; nothing else changes. The answer is the spec's own
decision (92_eei_decisions.md D21); that the unit's record holds it is log entry 25. That the very next step answers
it, before a unit whose answer has come goes on, and only once its unit is idle, is the model's choice (log entries 3
and 5). -/
def Obligations.ReservedOpcodeIsAnswered : Prop :=
  ∀ (s : State) (r : Request) (rest : List Request), s.requests = r :: rest → decode r = .reserved r.opcode →
    let hi := r.opcode.toNat / 16
    let s' := { s with requests := rest }
    (hi = 1 → s.seg.isIdle = true →
      step s = .next (s'.segEnds s.seg.data [] s.seg.port.answers .unknownOperation false)) ∧
    (hi = 2 → s.mat.isIdle = true →
      step s = .next (s'.matEnds s.mat.data [] s.mat.port.answers .unknownOperation false)) ∧
    (hi = 3 → s.lcd.isIdle = true →
      step s = .next (s'.lcdEnds s.lcd.data [] s.lcd.port.answers .unknownOperation false)) ∧
    (hi = 0 ∨ 4 ≤ hi →
      step s = .next { s' with decoderResponses := s.decoderResponses ++ [⟨.unknownOperation, false⟩] })

/-- A few request words read as the spec's opcode table and operand fields say (30_encoding.md R50 to R52); the layout
of a request in one number is the model's choice (log entry 6). -/
def Obligations.SampleWordsDecode : Prop :=
  decodeTableWord 8 0x10 = some .segClear ∧
  decodeTableWord 80 0x00000000050000000A15 = some (.segExecute 10 5) ∧
  decodeTableWord 40 0xFFFFFFFF14 = some (.segSetBrightness (-1)) ∧
  decodeTableWord 80 0x01000000020000000125 = some (.matSetPixel 1 2 true) ∧
  decodeTableWord 40 0x0000014135 = some (.lcdCommand 0x41) ∧
  decodeTableWord 96 0x694800000000000000000032 = some (.lcdMessage [0x48, 0x69]) ∧
  decodeTableWord 8 0x17 = none ∧ decodeTableWord 8 0x00 = none

/-- 00_scope.md R5, R7: when the host's next request decodes to an operation and its unit is idle, a step takes the
request and carries the operation out; while the unit is busy the request stays with the host. That the request goes
before another unit whose answer has come is the model's choice (log entry 3). -/
def Obligations.StepRunsDecodedRequest : Prop :=
  ∀ (s : State) (r : Request) (rest : List Request) (i : Instr),
    s.requests = r :: rest → decode r = .operation i →
    (s.unitIdle i.unit = true → step s = exec i { s with requests := rest }) ∧
    (s.unitIdle i.unit = false → ∀ t, step s = .next t → t.requests = s.requests)

/-- 20_memory.md R35: a unit waiting for an answer stays as it is: with no answer come and no request to take, a step
changes nothing. -/
def Obligations.StepWaitsForAnswers : Prop :=
  ∀ s : State, (∀ u, s.answerReady u = false) →
    (s.requests = [] → step s = .next s) ∧
    (∀ (r : Request) (rest : List Request) (i : Instr), s.requests = r :: rest → decode r = .operation i →
      s.unitIdle i.unit = false → step s = .next s)

/-- A request placed as the fetch's next is what the next step carries out (the harness of log entry 7), in the state
given but that the request's unit is idle: every other part of every unit is as it was. That this request goes before
a unit whose answer has come is log entry 3. -/
def Obligations.PlacedWordRunsNext : Prop :=
  ∀ (s : State) (nbits w : Nat) (i : Instr), decodeTableWord nbits w = some i →
    ∃ t, step (s.withFetchWord nbits w) = exec i t ∧ t.requests = s.requests ∧
      t.decoderResponses = s.decoderResponses ∧ t.seg.data = s.seg.data ∧ t.mat.data = s.mat.data ∧
      t.lcd.data = s.lcd.data ∧
      ∀ u, t.portOf u = if u = i.unit then { s.portOf u with seq := .idle } else s.portOf u

/-! ### Reset and invariants -/

/-- 10_state.md R23: every piece of state right after reset. The zeros are the spec's own decision
(92_eei_decisions.md D18). -/
def Obligations.ResetState : Prop :=
  let s := State.reset
  (∀ k : Fin 16, s.seg.data.fb[k] = 0x00) ∧ (∀ k : Fin 8, s.mat.data.fb[k] = 0x00) ∧ s.lcd.data.latch = 0x00 ∧
  s.seg.data.life = .unknown ∧ s.mat.data.life = .unknown ∧ s.lcd.data.life = .unknown ∧ s.lcd.data.dev = none ∧
  (∀ u, (s.portOf u).seq = .idle ∧ (s.portOf u).status = .ok ∧ (s.portOf u).value = false ∧ (s.portOf u).trace = [])

/-- The invariants hold at reset. -/
def Obligations.InvariantsHoldAtReset : Prop :=
  TracesSound Config.params .reset ∧ SequencersSound Config.params .reset ∧ LatchSound Config.params .reset

/-- 20_memory.md R31 to R34, R37: every step keeps each trace to the events its unit may send: for SEG strobes and
whole bulk writes, for MAT the frames of the table, for LCD the two registers and delays. -/
def Obligations.StepKeepsTracesSound : Prop :=
  ∀ s t : State, TracesSound Config.params s → step s = .next t →
    TracesSound Config.params t

/-- 10_state.md R20: every step keeps each unit idle or at a call of one of its own operations. -/
def Obligations.StepKeepsSequencersSound : Prop :=
  ∀ s t : State, SequencersSound Config.params s → step s = .next t → SequencersSound Config.params t

/-- With sound sequencers no step faults: the model's one fault cannot be reached. -/
def Obligations.SoundSequencersNeverFault : Prop :=
  ∀ (s : State) (f : Fault), SequencersSound Config.params s → step s ≠ .fault f

/-- 10_state.md R13: every step keeps the latch and the device in agreement, or the device's value unknown, or the
write that restores the agreement outstanding. -/
def Obligations.StepKeepsLatchSound : Prop :=
  ∀ s t : State, LatchSound Config.params s → step s = .next t → LatchSound Config.params t
end

