-- ==== Sys2Proof/Laws/State.lean ====
section
/-! SUPPORT. One lemma per field per update of a unit and of the block, so that no later proof unfolds an update. -/

namespace Sys2Proof.Machine

variable {D : Type} (u : Driver D)

/-! ### `finished` and `waitingAt` -/

section Finished
variable (d : D) (es : List Event) (as : List Answer) (st : Status) (v : Bool)
@[simp] theorem finished_data : (u.finished d es as st v).data = d := rfl
@[simp] theorem finished_seq : (u.finished d es as st v).port.seq = .idle := rfl
@[simp] theorem finished_status : (u.finished d es as st v).port.status = st := rfl
@[simp] theorem finished_value : (u.finished d es as st v).port.value = v := rfl
@[simp] theorem finished_trace : (u.finished d es as st v).port.trace = u.port.trace ++ es := rfl
@[simp] theorem finished_answers : (u.finished d es as st v).port.answers = as := rfl
@[simp] theorem finished_responses :
    (u.finished d es as st v).port.responses = u.port.responses ++ [⟨st, v⟩] := rfl
@[simp] theorem finished_isIdle : (u.finished d es as st v).isIdle = true := rfl
end Finished

section Waiting
variable (d : D) (es : List Event) (op : Instr) (k : Nat)
@[simp] theorem waitingAt_data : (u.waitingAt d es op k).data = d := rfl
@[simp] theorem waitingAt_seq : (u.waitingAt d es op k).port.seq = .busy op k := rfl
@[simp] theorem waitingAt_status : (u.waitingAt d es op k).port.status = u.port.status := rfl
@[simp] theorem waitingAt_value : (u.waitingAt d es op k).port.value = u.port.value := rfl
@[simp] theorem waitingAt_trace : (u.waitingAt d es op k).port.trace = u.port.trace ++ es := rfl
@[simp] theorem waitingAt_answers : (u.waitingAt d es op k).port.answers = [] := rfl
@[simp] theorem waitingAt_responses : (u.waitingAt d es op k).port.responses = u.port.responses := rfl
end Waiting

/-! ### `respond` -/

section Respond
variable (st : Status) (v : Bool)
@[simp] theorem respond_data : (u.respond st v).data = u.data := rfl
@[simp] theorem respond_seq : (u.respond st v).port.seq = .idle := rfl
@[simp] theorem respond_status : (u.respond st v).port.status = st := rfl
@[simp] theorem respond_value : (u.respond st v).port.value = v := rfl
@[simp] theorem respond_trace : (u.respond st v).port.trace = u.port.trace := rfl
@[simp] theorem respond_answers : (u.respond st v).port.answers = u.port.answers := rfl
@[simp] theorem respond_responses : (u.respond st v).port.responses = u.port.responses ++ [⟨st, v⟩] := rfl
end Respond

/-! ### `segEnds`, `matEnds`, `lcdEnds` -/

variable (s : State)

section SegEnds
variable (d : SegData) (es : List Event) (as : List Answer) (st : Status) (v : Bool)
@[simp] theorem segEnds_seg : (s.segEnds d es as st v).seg = s.seg.finished d es as st v := rfl
@[simp] theorem segEnds_mat : (s.segEnds d es as st v).mat = s.mat := rfl
@[simp] theorem segEnds_lcd : (s.segEnds d es as st v).lcd = s.lcd := rfl
@[simp] theorem segEnds_requests : (s.segEnds d es as st v).requests = s.requests := rfl
@[simp] theorem segEnds_decoderResponses : (s.segEnds d es as st v).decoderResponses = s.decoderResponses := rfl
end SegEnds

section MatEnds
variable (d : MatData) (es : List Event) (as : List Answer) (st : Status) (v : Bool)
@[simp] theorem matEnds_seg : (s.matEnds d es as st v).seg = s.seg := rfl
@[simp] theorem matEnds_mat : (s.matEnds d es as st v).mat = s.mat.finished d es as st v := rfl
@[simp] theorem matEnds_lcd : (s.matEnds d es as st v).lcd = s.lcd := rfl
@[simp] theorem matEnds_requests : (s.matEnds d es as st v).requests = s.requests := rfl
@[simp] theorem matEnds_decoderResponses : (s.matEnds d es as st v).decoderResponses = s.decoderResponses := rfl
end MatEnds

section LcdEnds
variable (d : LcdData) (es : List Event) (as : List Answer) (st : Status) (v : Bool)
@[simp] theorem lcdEnds_seg : (s.lcdEnds d es as st v).seg = s.seg := rfl
@[simp] theorem lcdEnds_mat : (s.lcdEnds d es as st v).mat = s.mat := rfl
@[simp] theorem lcdEnds_lcd : (s.lcdEnds d es as st v).lcd = s.lcd.finished d es as st v := rfl
@[simp] theorem lcdEnds_requests : (s.lcdEnds d es as st v).requests = s.requests := rfl
@[simp] theorem lcdEnds_decoderResponses : (s.lcdEnds d es as st v).decoderResponses = s.decoderResponses := rfl
end LcdEnds

/-! ### `portOf` and `withAnswers` -/

@[simp] theorem portOf_seg : s.portOf .seg = s.seg.port := rfl
@[simp] theorem portOf_mat : s.portOf .mat = s.mat.port := rfl
@[simp] theorem portOf_lcd : s.portOf .lcd = s.lcd.port := rfl
@[simp] theorem unitIdle_seg : s.unitIdle .seg = s.seg.isIdle := rfl
@[simp] theorem unitIdle_mat : s.unitIdle .mat = s.mat.isIdle := rfl
@[simp] theorem unitIdle_lcd : s.unitIdle .lcd = s.lcd.isIdle := rfl
@[simp] theorem outstanding_seg (p : Params) : s.outstanding p .seg = s.seg.outstanding (segProgram p) := rfl
@[simp] theorem outstanding_mat (p : Params) : s.outstanding p .mat = s.mat.outstanding (matProgram p) := rfl
@[simp] theorem outstanding_lcd (p : Params) : s.outstanding p .lcd = s.lcd.outstanding (lcdProgram p) := rfl
@[simp] theorem answerReady_seg : s.answerReady .seg = s.seg.answerReady := rfl
@[simp] theorem answerReady_mat : s.answerReady .mat = s.mat.answerReady := rfl
@[simp] theorem answerReady_lcd : s.answerReady .lcd = s.lcd.answerReady := rfl

theorem isIdle_iff : u.isIdle = true ↔ u.port.seq = .idle := by
  simp [Driver.isIdle]

theorem isIdle_false_iff : u.isIdle = false ↔ u.port.seq ≠ .idle := by
  simp [Driver.isIdle]

end Sys2Proof.Machine
end

