-- ==== Sys2Proof/Laws/Ops.lean ====
section
/-! SUPPORT. What the sequencer's operations do: the equations of `run`, running one list of statements after another,
an induction principle for what every run keeps, what `settle` leaves, and the inversion lemmas of starting an
operation. Proofs cite these and do not unfold `run`, `settle` or `exec`. -/

namespace Sys2Proof.Machine

variable {D : Type}

/-! ### The equations of `run` -/

section RunEquations
variable (k : Nat) (d : D) (as : List Answer) (rest : List (Stmt D))

@[simp] theorem run_nil : run [] k d as = { data := d, events := [], answers := as, stop := .returned false } := rfl
@[simp] theorem run_assign (f : D → D) : run (.assign f :: rest) k d as = run rest (k + 1) (f d) as := rfl
@[simp] theorem run_check_true : run (.check true :: rest) k d as = run rest (k + 1) d as := rfl
@[simp] theorem run_check_false :
    run (.check false :: rest) k d as = { data := d, events := [], answers := as, stop := .raised .invalidArgument } :=
  rfl
@[simp] theorem run_ret (v : D → Bool) :
    run (.ret v :: rest) k d as = { data := d, events := [], answers := as, stop := .returned (v d) } := rfl
@[simp] theorem run_call_waiting (ev : D → Event) (an : Answer → D → D) :
    run (.call ev an :: rest) k d [] = { data := d, events := [ev d], answers := [], stop := .waiting k } := rfl
@[simp] theorem run_call_complete (ev : D → Event) (an : Answer → D → D) :
    run (.call ev an :: rest) k d (.complete :: as) = (run rest (k + 1) (an .complete d) as).emit (ev d) := rfl
@[simp] theorem run_call_fail (ev : D → Event) (an : Answer → D → D) :
    run (.call ev an :: rest) k d (.fail :: as) =
      { data := an .fail d, events := [ev d], answers := as, stop := .raised (failStatus (ev d)) } := rfl
end RunEquations

section Emit
variable (g : Progress D) (e : Event)
@[simp] theorem emit_data : (g.emit e).data = g.data := rfl
@[simp] theorem emit_events : (g.emit e).events = e :: g.events := rfl
@[simp] theorem emit_answers : (g.emit e).answers = g.answers := rfl
@[simp] theorem emit_stop : (g.emit e).stop = g.stop := rfl
end Emit

/-- A statement that is no `return`. -/
def Stmt.isPlain (q : Stmt D) : Bool :=
  match q with
  | .assign _ => true
  | .check _ => true
  | .ret _ => false
  | .call _ _ => true

/-- A run goes on with another list of statements where it returned. -/
def Progress.andThen (g : Progress D) (next : D → List Answer → Progress D) : Progress D :=
  match g.stop with
  | .returned _ => { next g.data g.answers with events := g.events ++ (next g.data g.answers).events }
  | .raised _ => g
  | .waiting _ => g

theorem andThen_emit (g : Progress D) (e : Event) (next : D → List Answer → Progress D) :
    (g.emit e).andThen next = (g.andThen next).emit e := by
  cases g with
  | mk d es as st => cases st <;> simp [Progress.andThen, Progress.emit]

/-- Running one list of statements after another. -/
theorem run_append (xs ys : List (Stmt D)) (h : ∀ q ∈ xs, q.isPlain = true) (k : Nat) (d : D) (as : List Answer) :
    run (xs ++ ys) k d as = (run xs k d as).andThen (fun d' as' => run ys (k + xs.length) d' as') := by
  induction xs generalizing k d as with
  | nil => simp [Progress.andThen]
  | cons q xs ih =>
    have hx : ∀ q ∈ xs, q.isPlain = true := fun q hq => h q (List.mem_cons_of_mem _ hq)
    have hl : k + (q :: xs).length = (k + 1) + xs.length := by simp; omega
    have hq : q.isPlain = true := h q List.mem_cons_self
    rw [List.cons_append, hl]
    cases q with
    | assign f => simp [ih hx]
    | check ok => cases ok <;> simp [ih hx, Progress.andThen]
    | ret v => simp [Stmt.isPlain] at hq
    | call ev an =>
      cases as with
      | nil => simp [Progress.andThen]
      | cons a as => cases a with
        | complete => simp only [run_call_complete, ih hx, andThen_emit]
        | fail => simp [Progress.andThen]

/-- What every run keeps: if each assignment and each answer keeps `P`, and each event sent where `P` holds is in `Q`,
then the registers a run leaves have `P` and its events are all in `Q`. -/
theorem run_keeps (P : D → Prop) (Q : Event → Prop) (body : List (Stmt D))
    (hb : ∀ q ∈ body, match q with
      | .assign f => ∀ d, P d → P (f d)
      | .check _ => True
      | .ret _ => True
      | .call ev an => ∀ d, P d → Q (ev d) ∧ ∀ a, P (an a d))
    (k : Nat) (d : D) (as : List Answer) (hd : P d) :
    P (run body k d as).data ∧ ∀ e ∈ (run body k d as).events, Q e := by
  induction body generalizing k d as with
  | nil => simp [hd]
  | cons q body ih =>
    have hq := hb q List.mem_cons_self
    have ih' := ih (fun q hq => hb q (List.mem_cons_of_mem _ hq))
    cases q with
    | assign f => exact ih' _ _ _ (hq d hd)
    | check ok => cases ok with
      | true => exact ih' _ _ _ hd
      | false => simp [hd]
    | ret v => simp [hd]
    | call ev an =>
      obtain ⟨hev, han⟩ := hq d hd
      cases as with
      | nil => simp [hd, hev]
      | cons a as =>
        cases a with
        | complete =>
          obtain ⟨h1, h2⟩ := ih' (k + 1) _ as (han .complete)
          exact ⟨h1, by simpa using ⟨hev, h2⟩⟩
        | fail => exact ⟨han .fail, by simpa using hev⟩

/-- A run that waits waits at a call of its own body, has taken every answer, and has that call's event last. -/
theorem run_waiting (body : List (Stmt D)) (k : Nat) (d : D) (as : List Answer) (j : Nat)
    (h : (run body k d as).stop = .waiting j) :
    (run body k d as).answers = [] ∧ k ≤ j ∧ ∃ ev an es, body[j - k]? = some (.call ev an) ∧
      (run body k d as).events = es ++ [ev (run body k d as).data] := by
  induction body generalizing k d as with
  | nil => simp at h
  | cons q body ih =>
    have step : ∀ d' as', (run body (k + 1) d' as').stop = .waiting j →
        (run body (k + 1) d' as').answers = [] ∧ k ≤ j ∧ ∃ ev an es, (q :: body)[j - k]? = some (.call ev an) ∧
          (run body (k + 1) d' as').events = es ++ [ev (run body (k + 1) d' as').data] := by
      intro d' as' h'
      obtain ⟨h1, h2, ev, an, es, h3, h4⟩ := ih (k + 1) d' as' h'
      refine ⟨h1, by omega, ev, an, es, ?_, h4⟩
      have : j - k = (j - (k + 1)) + 1 := by omega
      rw [this]; simpa using h3
    cases q with
    | assign f => exact step _ _ h
    | check ok => cases ok with
      | true => exact step _ _ h
      | false => simp at h
    | ret v => simp at h
    | call ev an =>
      cases as with
      | nil =>
        simp only [run_call_waiting, Stop.waiting.injEq] at h
        subst h
        exact ⟨rfl, le_rfl, ev, an, [], by simp, rfl⟩
      | cons a as => cases a with
        | complete =>
          obtain ⟨h1, h2, ev', an', es, h3, h4⟩ := step (an .complete d) as h
          exact ⟨h1, h2, ev', an', ev d :: es, h3, by simpa using h4⟩
        | fail => simp at h

/-- With further answers, a run that waits becomes: what it did, then going on from the call it waited at. -/
theorem run_more_answers (body : List (Stmt D)) (k : Nat) (d : D) (as bs : List Answer) (j : Nat)
    (h : (run body k d as).stop = .waiting j) :
    ∃ g, goOn (body.drop (j - k)) j (run body k d as).data bs = some g ∧
      run body k d (as ++ bs) = { g with events := (run body k d as).events ++ g.events } := by
  induction body generalizing k d as with
  | nil => simp at h
  | cons q body ih =>
    have step : ∀ d' as', (run body (k + 1) d' as').stop = .waiting j →
        ∃ g, goOn ((q :: body).drop (j - k)) j (run body (k + 1) d' as').data bs = some g ∧
          run body (k + 1) d' (as' ++ bs) = { g with events := (run body (k + 1) d' as').events ++ g.events } := by
      intro d' as' h'
      have hk : k + 1 ≤ j := (run_waiting body (k + 1) d' as' j h').2.1
      have : j - k = (j - (k + 1)) + 1 := by omega
      rw [this]; simpa using ih (k + 1) d' as' h'
    cases q with
    | assign f => exact step _ _ h
    | check ok => cases ok with
      | true => exact step _ _ h
      | false => simp at h
    | ret v => simp at h
    | call ev an =>
      cases as with
      | nil =>
        simp only [run_call_waiting, Stop.waiting.injEq] at h
        subst h
        cases bs with
        | nil => exact ⟨_, by simp [goOn]; rfl, by simp⟩
        | cons b bs => cases b with
          | complete => exact ⟨_, by simp [goOn]; rfl, by simp [Progress.emit]⟩
          | fail => exact ⟨_, by simp [goOn]; rfl, by simp⟩
      | cons a as => cases a with
        | complete =>
          obtain ⟨g, hg, hr⟩ := step (an .complete d) as h
          refine ⟨g, hg, ?_⟩
          simp [hr, Progress.emit]
        | fail => simp at h

/-- How many calls a list of statements makes. -/
def callCount (body : List (Stmt D)) : Nat :=
  body.countP (fun q => match q with
    | .assign _ => false
    | .check _ => false
    | .ret _ => false
    | .call _ _ => true)

/-- On a reliable bus no run waits, and under any answers the events are the first of those on a reliable bus. -/
theorem run_reliable (body : List (Stmt D)) (k : Nat) (d : D) (as : List Answer) (n : Nat) (hn : callCount body ≤ n) :
    (∀ j, (run body k d (reliable n)).stop ≠ .waiting j) ∧
      (run body k d as).events <+: (run body k d (reliable n)).events := by
  induction body generalizing k d as n with
  | nil => simp
  | cons q body ih =>
    cases q with
    | assign f => exact ih _ _ _ _ (by simpa [callCount] using hn)
    | check ok => cases ok with
      | true => exact ih _ _ _ _ (by simpa [callCount] using hn)
      | false => simp
    | ret v => simp
    | call ev an =>
      have hn' : callCount body + 1 ≤ n := by simpa [callCount] using hn
      obtain ⟨m, rfl⟩ : ∃ m, n = m + 1 := ⟨n - 1, by omega⟩
      have hr : reliable (m + 1) = .complete :: reliable m := rfl
      have h := ih (k + 1) (an .complete d)
      rw [hr]
      refine ⟨fun j => by simpa using (h [] m (by omega)).1 j, ?_⟩
      cases as with
      | nil => simp
      | cons a as => cases a with
        | complete => simpa using (h as m (by omega)).2
        | fail => simp

/-! ### What `settle` leaves -/

section Settle
variable (u : Driver D) (op : Instr) (pr : Program D) (d : D) (es : List Event) (as : List Answer)

@[simp] theorem settle_returned (v : Bool) :
    u.settle op pr { data := d, events := es, answers := as, stop := .returned v } = u.finished d es as .ok v := rfl

@[simp] theorem settle_raised (st : Status) :
    u.settle op pr { data := d, events := es, answers := as, stop := .raised st } =
      u.finished (afterException pr.onException st d) es as st false := rfl

theorem settle_waiting (k : Nat) :
    u.settle op pr { data := d, events := es, answers := [], stop := .waiting k } = u.waitingAt d es op k := rfl

end Settle

/-- Everything an operation can leave in its unit: it returned, or raised an exception, or waits at one of its calls
with every answer taken. -/
theorem launch_cases (u : Driver D) (op : Instr) (pr : Program D) :
    (∃ v, (run pr.body 0 u.data u.port.answers).stop = .returned v ∧
      u.launch op pr = u.finished (run pr.body 0 u.data u.port.answers).data
        (run pr.body 0 u.data u.port.answers).events (run pr.body 0 u.data u.port.answers).answers .ok v) ∨
    (∃ st, (run pr.body 0 u.data u.port.answers).stop = .raised st ∧
      u.launch op pr =
        u.finished (afterException pr.onException st (run pr.body 0 u.data u.port.answers).data)
          (run pr.body 0 u.data u.port.answers).events (run pr.body 0 u.data u.port.answers).answers st false) ∨
    (∃ k, (run pr.body 0 u.data u.port.answers).stop = .waiting k ∧
      u.launch op pr =
        u.waitingAt (run pr.body 0 u.data u.port.answers).data (run pr.body 0 u.data u.port.answers).events op k) := by
  unfold Driver.launch
  generalize hg : run pr.body 0 u.data u.port.answers = g
  obtain ⟨d, es, as, st⟩ := g
  cases st with
  | returned v => exact .inl ⟨v, rfl, rfl⟩
  | raised st => exact .inr (.inl ⟨st, rfl, rfl⟩)
  | waiting k =>
    have := (run_waiting pr.body 0 u.data u.port.answers k (by rw [hg])).1
    rw [hg] at this
    simp only at this
    subst this
    exact .inr (.inr ⟨k, rfl, rfl⟩)

/-- The call a unit waits on after a launch is the one whose event the run appended last. -/
theorem launch_outstanding {programs : Instr → Option (Program D)} {u : Driver D} {op : Instr} {pr : Program D}
    (hp : programs op = some pr) {k : Nat} (h : (run pr.body 0 u.data u.port.answers).stop = .waiting k) :
    ∃ es e, (run pr.body 0 u.data u.port.answers).events = es ++ [e] ∧
      (u.launch op pr).outstanding programs = some e := by
  obtain ⟨-, -, ev, an, es, hb, he⟩ := run_waiting _ _ _ _ _ h
  refine ⟨es, _, he, ?_⟩
  obtain ⟨v, h1, -⟩ | ⟨st, h1, -⟩ | ⟨j, h1, h2⟩ := launch_cases u op pr
  · simp [h] at h1
  · simp [h] at h1
  · obtain rfl : k = j := by simpa [h] using h1
    rw [Nat.sub_zero] at hb
    simp [h2, Driver.outstanding, hp, hb]

/-! ### Starting an operation -/

theorem startSeg_next {op : Instr} {pr : Program SegData} {s t : State} :
    startSeg op pr s = .next t ↔ s.seg.isIdle = true ∧ t = { s with seg := s.seg.launch op pr } := by
  unfold startSeg
  cases s.seg.isIdle <;> simp [eq_comm]

theorem startMat_next {op : Instr} {pr : Program MatData} {s t : State} :
    startMat op pr s = .next t ↔ s.mat.isIdle = true ∧ t = { s with mat := s.mat.launch op pr } := by
  unfold startMat
  cases s.mat.isIdle <;> simp [eq_comm]

theorem startLcd_next {op : Instr} {pr : Program LcdData} {s t : State} :
    startLcd op pr s = .next t ↔ s.lcd.isIdle = true ∧ t = { s with lcd := s.lcd.launch op pr } := by
  unfold startLcd
  cases s.lcd.isIdle <;> simp [eq_comm]

theorem startPixel_next {op : Instr} {x y : Word} {pr : Program MatData} {s t : State} :
    startPixel op x y pr s = .next t ↔
      pixelInGrid x y = true ∧ s.mat.isIdle = true ∧ t = { s with mat := s.mat.launch op pr } := by
  unfold startPixel
  cases pixelInGrid x y <;> simp [startMat_next]

/-- Every instruction of SEG is its program handed to SEG. -/
theorem exec_seg {i : Instr} {pr : Program SegData} (h : segProgram Config.params i = some pr) (s : State) :
    exec i s = startSeg i pr s := by
  cases i <;> first | (cases h; rfl) | (simp [segProgram] at h)

/-- Every instruction of MAT is its program handed to MAT; the two pixel operations only inside the grid. -/
theorem exec_mat {i : Instr} {pr : Program MatData} (h : matProgram Config.params i = some pr) (s : State) :
    exec i s = startMat i pr s ∨
      (exec i s = .refused .outsidePrecondition ∧
        ∃ x y, pixelInGrid x y = false ∧ (i = .matGetPixel x y ∨ ∃ e, i = .matSetPixel x y e)) := by
  cases i with
  | matSetPixel x y e =>
    cases h
    cases hg : pixelInGrid x y with
    | true => exact .inl (by simp [exec, execMatSetPixel, startPixel, hg])
    | false => exact .inr ⟨by simp [exec, execMatSetPixel, startPixel, hg], x, y, hg, .inr ⟨e, rfl⟩⟩
  | matGetPixel x y =>
    cases h
    cases hg : pixelInGrid x y with
    | true => exact .inl (by simp [exec, execMatGetPixel, startPixel, hg])
    | false => exact .inr ⟨by simp [exec, execMatGetPixel, startPixel, hg], x, y, hg, .inl rfl⟩
  | _ => first | (cases h; exact .inl rfl) | (simp [matProgram] at h)

/-- Every instruction of LCD is its program handed to LCD. -/
theorem exec_lcd {i : Instr} {pr : Program LcdData} (h : lcdProgram Config.params i = some pr) (s : State) :
    exec i s = startLcd i pr s := by
  cases i <;> first | (cases h; rfl) | (simp [lcdProgram] at h)

/-- Every instruction has a program in its own unit and in no other. -/
theorem program_exists (p : Params) (i : Instr) :
    (i.unit = .seg ∧ (∃ pr, segProgram p i = some pr) ∧ matProgram p i = none ∧ lcdProgram p i = none) ∨
    (i.unit = .mat ∧ (∃ pr, matProgram p i = some pr) ∧ segProgram p i = none ∧ lcdProgram p i = none) ∨
    (i.unit = .lcd ∧ (∃ pr, lcdProgram p i = some pr) ∧ segProgram p i = none ∧ matProgram p i = none) := by
  cases i <;> simp [Instr.unit, segProgram, matProgram, lcdProgram]

/-- Everything an instruction that answers a next state can have done: its program was launched in its idle unit, and
nothing else has changed. -/
theorem exec_next_cases {i : Instr} {s t : State} (h : exec i s = .next t) :
    (i.unit = .seg ∧ s.seg.isIdle = true ∧
      ∃ pr, segProgram Config.params i = some pr ∧ t = { s with seg := s.seg.launch i pr }) ∨
    (i.unit = .mat ∧ s.mat.isIdle = true ∧
      ∃ pr, matProgram Config.params i = some pr ∧ t = { s with mat := s.mat.launch i pr }) ∨
    (i.unit = .lcd ∧ s.lcd.isIdle = true ∧
      ∃ pr, lcdProgram Config.params i = some pr ∧ t = { s with lcd := s.lcd.launch i pr }) := by
  obtain ⟨hu, ⟨pr, hp⟩, -⟩ | ⟨hu, ⟨pr, hp⟩, -⟩ | ⟨hu, ⟨pr, hp⟩, -⟩ := program_exists Config.params i
  · rw [exec_seg hp, startSeg_next] at h
    exact .inl ⟨hu, h.1, pr, hp, h.2⟩
  · obtain he | ⟨he, -⟩ := exec_mat hp s
    · rw [he, startMat_next] at h
      exact .inr (.inl ⟨hu, h.1, pr, hp, h.2⟩)
    · rw [he] at h
      cases h
  · rw [exec_lcd hp, startLcd_next] at h
    exact .inr (.inr ⟨hu, h.1, pr, hp, h.2⟩)

end Sys2Proof.Machine
end

