-- ==== Sys2Proof/Laws/Lcd.lean ====
section
/-! SUPPORT. What pin writes do: one bit of the latch at a time, one `W(v)` each, and what the display is strobed by a
byte transfer. -/

namespace Sys2Proof.Machine

/-! ### One pin -/

/-- A pin write gives its pin the level and leaves the others. -/
@[simp] theorem pinLevel_withPin (latch : Byte) (q r : BitVec 3) (level : Bool) :
    pinLevel (withPin latch q level) r = if r = q then level else pinLevel latch r := by
  have hr : r.toNat < 8 := r.isLt
  have hq : q.toNat < 8 := q.isLt
  by_cases h : r = q
  · subst h
    cases level <;> simp [pinLevel, withPin, withMask, pinMask, hr]
  · have hne : r.toNat ≠ q.toNat := fun e => h (BitVec.eq_of_toNat_eq e)
    have : ¬ (q.toNat ≤ r.toNat ∧ r.toNat - q.toNat = 0) := by omega
    cases level <;> simp [pinLevel, withPin, withMask, pinMask, hr, h] <;> omega

/-- A pin write changes at most one bit. -/
theorem withPin_one_bit (latch : Byte) (q : BitVec 3) (level : Bool) :
    differAtMostOneBit latch (withPin latch q level) := by
  have hq : q.toNat < 8 := q.isLt
  have bits : ∀ i : Nat, i < 8 → (withPin latch q level).getLsbD i =
      if i = q.toNat then level else latch.getLsbD i := by
    intro i hi
    have := pinLevel_withPin latch q (BitVec.ofNat 3 i) level
    have hm : i % 8 = i := Nat.mod_eq_of_lt hi
    simpa [pinLevel, hm, ← BitVec.toNat_inj] using this
  by_cases h : latch.getLsbD q.toNat = level
  · left
    apply BitVec.eq_of_getLsbD_eq
    intro i hi
    rw [bits i hi]
    split
    · next e => rw [e, h]
    · rfl
  · right
    refine ⟨⟨q.toNat, hq⟩, ?_⟩
    apply BitVec.eq_of_getLsbD_eq
    intro i hi
    simp only [BitVec.getLsbD_xor, bits i hi, BitVec.getLsbD_shiftLeft, BitVec.getLsbD_one]
    by_cases e : i = q.toNat
    · subst e
      cases level <;> cases hl : latch.getLsbD q.toNat <;> simp_all
    · simp [e, hi]
      omega

/-! ### Pin writes one after another -/

@[simp] theorem latchAfter_nil (latch : Byte) : latchAfter latch [] = latch := rfl
@[simp] theorem latchAfter_cons (latch : Byte) (w : BitVec 3 × Bool) (ws : List (BitVec 3 × Bool)) :
    latchAfter latch (w :: ws) = latchAfter (withPin latch w.1 w.2) ws := rfl
theorem latchAfter_append (latch : Byte) (xs ys : List (BitVec 3 × Bool)) :
    latchAfter latch (xs ++ ys) = latchAfter (latchAfter latch xs) ys := by
  simp [latchAfter]

@[simp] theorem latchSequence_nil (latch : Byte) : latchSequence latch [] = [] := rfl
@[simp] theorem latchSequence_cons (latch : Byte) (w : BitVec 3 × Bool) (ws : List (BitVec 3 × Bool)) :
    latchSequence latch (w :: ws) = withPin latch w.1 w.2 :: latchSequence (withPin latch w.1 w.2) ws := rfl
theorem latchSequence_append (latch : Byte) (xs ys : List (BitVec 3 × Bool)) :
    latchSequence latch (xs ++ ys) = latchSequence latch xs ++ latchSequence (latchAfter latch xs) ys := by
  induction xs generalizing latch with
  | nil => rfl
  | cons w xs ih => simp [ih]
@[simp] theorem latchSequence_length (latch : Byte) (ws : List (BitVec 3 × Bool)) :
    (latchSequence latch ws).length = ws.length := by
  induction ws generalizing latch with
  | nil => rfl
  | cons w ws ih => simp [ih]

@[simp] theorem pinEvents_nil (p : Params) (latch : Byte) : pinEvents p latch [] = [] := rfl
@[simp] theorem pinEvents_cons (p : Params) (latch : Byte) (w : BitVec 3 × Bool) (ws : List (BitVec 3 × Bool)) :
    pinEvents p latch (w :: ws) =
      .busReg p.lcdRegLatch (withPin latch w.1 w.2) :: .delay .pulse :: pinEvents p (withPin latch w.1 w.2) ws := rfl
theorem pinEvents_append (p : Params) (latch : Byte) (xs ys : List (BitVec 3 × Bool)) :
    pinEvents p latch (xs ++ ys) = pinEvents p latch xs ++ pinEvents p (latchAfter latch xs) ys := by
  simp [pinEvents, latchSequence_append]
@[simp] theorem pinEvents_length (p : Params) (latch : Byte) (ws : List (BitVec 3 × Bool)) :
    (pinEvents p latch ws).length = 2 * ws.length := by
  induction ws generalizing latch with
  | nil => rfl
  | cons w ws ih => simp [ih]; omega

/-- The latch values of pin writes are their latch sequence. -/
@[simp] theorem latchValues_pinEvents (p : Params) (latch : Byte) (ws : List (BitVec 3 × Bool)) :
    latchValues p (pinEvents p latch ws) = latchSequence latch ws := by
  induction ws generalizing latch with
  | nil => rfl
  | cons w ws ih => simpa [latchValues] using ih (withPin latch w.1 w.2)

@[simp] theorem latchValues_append (p : Params) (xs ys : List Event) :
    latchValues p (xs ++ ys) = latchValues p xs ++ latchValues p ys := by
  simp [latchValues]

/-- Of the events of pin writes the even ones are latch writes, the odd ones pulse delays. -/
theorem pinEvents_getElem? (p : Params) (latch : Byte) (ws : List (BitVec 3 × Bool)) (k : Nat)
    (hk : k < 2 * ws.length) :
    (pinEvents p latch ws)[k]? = some (if k % 2 = 0 then .busReg p.lcdRegLatch (latchAfter latch (ws.take (k / 2 + 1)))
      else .delay .pulse) := by
  induction ws generalizing latch k with
  | nil => simp at hk
  | cons w ws ih =>
    match k with
    | 0 => simp
    | 1 => simp
    | k + 2 =>
      have h1 : (k + 2) / 2 + 1 = (k / 2 + 1) + 1 := by omega
      have h2 : (k + 2) % 2 = k % 2 := by omega
      have := ih (withPin latch w.1 w.2) k (by simp at hk; omega)
      simp [this, h2]

/-- The last latch value of some pin writes is the latch after them. -/
theorem latchSequence_getLastD (latch : Byte) (ws : List (BitVec 3 × Bool)) (d : Byte) (h : ws ≠ []) :
    (latchSequence latch ws).getLastD d = latchAfter latch ws := by
  induction ws generalizing latch d with
  | nil => exact absurd rfl h
  | cons w ws ih =>
    by_cases hw : ws = []
    · subst hw; simp
    · rw [latchSequence_cons, List.getLastD_cons]
      exact ih (withPin latch w.1 w.2) _ hw

/-- The last latch value among the first `k + 1` events of pin writes. -/
theorem latchValues_take_getLastD (p : Params) (latch : Byte) (ws : List (BitVec 3 × Bool)) (k : Nat)
    (hk : k < 2 * ws.length) (d : Byte) :
    (latchValues p ((pinEvents p latch ws).take (k + 1))).getLastD d = latchAfter latch (ws.take (k / 2 + 1)) := by
  induction ws generalizing latch k d with
  | nil => simp at hk
  | cons w ws ih =>
    match k with
    | 0 => simp [latchValues]
    | 1 => simp [latchValues]
    | k + 2 =>
      have h1 : (k + 2) / 2 + 1 = (k / 2 + 1) + 1 := by omega
      have hv : ∀ es, latchValues p (.busReg p.lcdRegLatch (withPin latch w.1 w.2) :: .delay .pulse :: es) =
          withPin latch w.1 w.2 :: latchValues p es := by intro es; simp [latchValues]
      rw [h1]
      simp only [pinEvents_cons, List.take_succ_cons, latchAfter_cons, hv, List.getLastD_cons]
      exact ih (withPin latch w.1 w.2) k (by simp at hk; omega) _

@[simp] theorem pinStmts_nil (p : Params) : pinStmts p [] = [] := rfl
theorem pinStmts_cons (p : Params) (w : BitVec 3 × Bool) (ws : List (BitVec 3 × Bool)) :
    pinStmts p (w :: ws) = setPinStmts p w ++ pinStmts p ws := rfl
theorem pinStmts_append (p : Params) (xs ys : List (BitVec 3 × Bool)) :
    pinStmts p (xs ++ ys) = pinStmts p xs ++ pinStmts p ys := by
  simp [pinStmts]

theorem pinStmts_plain (p : Params) (ws : List (BitVec 3 × Bool)) : ∀ q ∈ pinStmts p ws, q.isPlain = true := by
  intro q hq
  simp only [pinStmts, List.mem_flatMap] at hq
  obtain ⟨w, -, hq⟩ := hq
  simp only [setPinStmts, List.mem_cons, List.not_mem_nil, or_false] at hq
  obtain rfl | rfl | rfl := hq <;> rfl

/-- The registers after pin writes that all succeeded. -/
def pinData (d : LcdData) (ws : List (BitVec 3 × Bool)) : LcdData :=
  { d with latch := latchAfter d.latch ws, dev := if ws = [] then d.dev else some (latchAfter d.latch ws) }

@[simp] theorem pinData_nil (d : LcdData) : pinData d [] = d := rfl
@[simp] theorem pinData_latch (d : LcdData) (ws : List (BitVec 3 × Bool)) :
    (pinData d ws).latch = latchAfter d.latch ws := rfl
@[simp] theorem pinData_life (d : LcdData) (ws : List (BitVec 3 × Bool)) : (pinData d ws).life = d.life := rfl
theorem pinData_cons (d : LcdData) (w : BitVec 3 × Bool) (ws : List (BitVec 3 × Bool)) :
    pinData { d with latch := withPin d.latch w.1 w.2, dev := some (withPin d.latch w.1 w.2) } ws =
      pinData d (w :: ws) := by
  cases ws <;> simp [pinData]

/-- On a reliable environment pin writes put out one `W(v)` each, take two answers each, and go on. -/
theorem run_pins_reliable (p : Params) (ws : List (BitVec 3 × Bool)) (rest : List (Stmt LcdData)) (k : Nat)
    (d : LcdData) (as : List Answer) :
    run (pinStmts p ws ++ rest) k d (reliable (2 * ws.length) ++ as) =
      { run rest (k + 3 * ws.length) (pinData d ws) as with
        events := pinEvents p d.latch ws ++ (run rest (k + 3 * ws.length) (pinData d ws) as).events } := by
  induction ws generalizing k d with
  | nil => rfl
  | cons w ws ih =>
    have hr : reliable (2 * (w :: ws).length) = .complete :: .complete :: reliable (2 * ws.length) := by
      simp [reliable, Nat.mul_add, List.replicate_succ]
    have hk : k + 3 * (w :: ws).length = k + 1 + 1 + 1 + 3 * ws.length := by simp; omega
    rw [hr, hk, ← pinData_cons]
    simp only [pinStmts_cons, setPinStmts, latchWrite, delayCall, plainCall, List.cons_append, List.nil_append,
      run_assign, run_call_complete, ih]
    simp [Progress.emit]

/-- With the bad answer at call `k` the pin writes end there. -/
theorem run_pins_stop (p : Params) (ws : List (BitVec 3 × Bool)) (rest : List (Stmt LcdData)) (j : Nat) (d : LcdData)
    (k : Nat) (hk : k < 2 * ws.length) (as : List Answer) :
    run (pinStmts p ws ++ rest) j d (reliable k ++ .fail :: as) =
      { data := { d with latch := latchAfter d.latch (ws.take (k / 2 + 1)),
                         dev := if k % 2 = 0 then none else some (latchAfter d.latch (ws.take (k / 2 + 1))) },
        events := (pinEvents p d.latch ws).take (k + 1), answers := as,
        stop := .raised (if k % 2 = 0 then .transportFailure else .interrupted) } := by
  induction ws generalizing k j d with
  | nil => simp at hk
  | cons w ws ih =>
    match k with
    | 0 =>
      simp [reliable, pinStmts_cons, setPinStmts, latchWrite, failStatus]
    | 1 =>
      simp [reliable, pinStmts_cons, setPinStmts, latchWrite, delayCall, plainCall, failStatus, Progress.emit]
    | k + 2 =>
      have hr : reliable (k + 2) = .complete :: .complete :: reliable k := rfl
      have hk' : k < 2 * ws.length := by simp at hk; omega
      have h1 : (k + 2) / 2 + 1 = (k / 2 + 1) + 1 := by omega
      have h2 : (k + 2) % 2 = k % 2 := by omega
      rw [hr, h1, h2]
      simp only [pinStmts_cons, setPinStmts, latchWrite, delayCall, plainCall, List.cons_append, List.nil_append,
        run_assign, run_call_complete, ih (hk := hk')]
      simp [Progress.emit]

/-- `LCD.init` as two calls of its own, two runs of pin writes and the settle delays between and after them. -/
theorem lcdInitBody_eq (p : Params) :
    lcdInitBody p = plainCall (fun _ => .busReg p.lcdRegDirection p.lcdDirAllOutput) ::
      (pinStmts p (initPins p) ++ (delayCall .settle :: (pinStmts p (homePins p) ++
        (delayCall .settle :: [.assign (fun d => { d with life := .ready })])))) := by
  have h : pinStmts p (initPins p) = pinStmts p [(p.lcdPinBacklight, true)] ++ (lcdWrite8Body p p.lcdWake1 false ++
      (lcdWrite8Body p p.lcdWake2 false ++ (lcdWrite8Body p p.initDisplayControl false ++
        (lcdWrite8Body p p.initFunctionSet false ++
          (lcdWrite8Body p p.initEntryMode false ++ lcdWrite8Body p p.lcdCmdClearDisplay false))))) := by
    simp only [lcdWrite8Body, ← pinStmts_append]
    simp [initPins]
  simp only [h, homePins, lcdInitBody, lcdDirectionBody, lcdSetPinBody, lcdCommandBody, lcdLogicalCommandBody,
    lcdWrite8Body, List.append_assoc, List.cons_append, List.nil_append]

@[simp] theorem initPins_length (p : Params) : (initPins p).length = 91 := rfl
@[simp] theorem homePins_length (p : Params) : (homePins p).length = 15 := rfl
@[simp] theorem initEvents_length (p : Params) (latch : Byte) : (initEvents p latch).length = 215 := by
  simp [initEvents]

/-! ### What a byte transfer strobes -/

/-- The seven pins are distinct, as inequalities. -/
theorem pins_ne {p : Params} (h : p.Valid) :
    p.lcdPinEn ≠ p.lcdPinRs ∧ p.lcdPinD0 ≠ p.lcdPinRs ∧ p.lcdPinD1 ≠ p.lcdPinRs ∧ p.lcdPinD2 ≠ p.lcdPinRs ∧
    p.lcdPinD3 ≠ p.lcdPinRs ∧ p.lcdPinBacklight ≠ p.lcdPinRs ∧ p.lcdPinD0 ≠ p.lcdPinEn ∧ p.lcdPinD1 ≠ p.lcdPinEn ∧
    p.lcdPinD2 ≠ p.lcdPinEn ∧ p.lcdPinD3 ≠ p.lcdPinEn ∧ p.lcdPinBacklight ≠ p.lcdPinEn ∧
    p.lcdPinD1 ≠ p.lcdPinD0 ∧ p.lcdPinD2 ≠ p.lcdPinD0 ∧ p.lcdPinD3 ≠ p.lcdPinD0 ∧ p.lcdPinBacklight ≠ p.lcdPinD0 ∧
    p.lcdPinD2 ≠ p.lcdPinD1 ∧ p.lcdPinD3 ≠ p.lcdPinD1 ∧ p.lcdPinBacklight ≠ p.lcdPinD1 ∧
    p.lcdPinD3 ≠ p.lcdPinD2 ∧ p.lcdPinBacklight ≠ p.lcdPinD2 ∧ p.lcdPinBacklight ≠ p.lcdPinD3 := by
  have := h.2.2.2.1
  simp only [Params.pins, List.nodup_cons, List.mem_cons, List.not_mem_nil, not_or, or_false] at this
  simp only [ne_eq, eq_comm] at this ⊢
  tauto

theorem strobed_append (p : Params) (xs ys : List Byte) : strobed p (xs ++ ys) = strobed p xs ++ strobed p ys := by
  simp [strobed]

/-- The four data-line bits of a nibble, joined, are the nibble. -/
theorem nibble_of_bits (n : Nibble) :
      BitVec.ofBool n[3] ++ BitVec.ofBool n[2] ++ BitVec.ofBool n[1] ++ BitVec.ofBool n[0] = n := by
  revert n; decide

/-- With enable low before, a byte transfer strobes the two halves of its byte. -/
theorem strobed_write8 {p : Params} (h : p.Valid) (latch : Byte) (hl : pinLevel latch p.lcdPinEn = false)
    (byte : Byte) (mode : Bool) :
    strobed p (latchSequence latch (write8Pins p byte mode)) = halves mode byte := by
  obtain ⟨h1, h2, h3, h4, h5, h6, h7, h8, h9, h10, h11, h12, h13, h14, h15, h16, h17, h18, h19, h20, h21⟩ := pins_ne h
  simp [strobed, write8Pins, nibblePins, pulsePins, halves, hl, h1, h7, h8, h9, h10, h1.symm, h2.symm, h3.symm, h4.symm,
    h5.symm, h7.symm, h8.symm, h9.symm, h10.symm, h12.symm, h13.symm, h14.symm, h16.symm, h17.symm, h19.symm, dataLines]
  exact ⟨nibble_of_bits _, nibble_of_bits _⟩

/-- A byte transfer leaves enable low. -/
theorem write8_enable_low (p : Params) (latch : Byte) (byte : Byte) (mode : Bool) :
    pinLevel (latchAfter latch (write8Pins p byte mode)) p.lcdPinEn = false := by
  simp [write8Pins, pulsePins, latchAfter_append]

/-- Byte transfers one after another strobe the halves of each byte and leave enable low. -/
theorem strobed_write8s {p : Params} (h : p.Valid) (bytes : List (Byte × Bool)) (latch : Byte)
    (hl : pinLevel latch p.lcdPinEn = false) :
    strobed p (latchSequence latch (bytes.flatMap (fun c => write8Pins p c.1 c.2))) =
        bytes.flatMap (fun c => halves c.2 c.1) ∧
      pinLevel (latchAfter latch (bytes.flatMap (fun c => write8Pins p c.1 c.2))) p.lcdPinEn = false := by
  induction bytes generalizing latch with
  | nil => exact ⟨rfl, hl⟩
  | cons c bytes ih =>
    have := ih (latchAfter latch (write8Pins p c.1 c.2)) (write8_enable_low _ _ _ _)
    simp only [List.flatMap_cons, latchSequence_append, strobed_append, latchAfter_append, strobed_write8 h _ hl, this,
      and_self]

/-- A byte transfer leaves the backlight. -/
theorem write8_backlight {p : Params} (h : p.Valid) (latch : Byte) (byte : Byte) (mode : Bool) :
    pinLevel (latchAfter latch (write8Pins p byte mode)) p.lcdPinBacklight = pinLevel latch p.lcdPinBacklight := by
  simp [write8Pins, nibblePins, pulsePins, pins_ne h]

/-- The latch with one pin at a level is fixed by its bits. -/
theorem eq_withPin {latch old : Byte} {pin : BitVec 3} {level : Bool}
    (h : ∀ q : Fin 8, latch.getLsbD q.val = if q.val = pin.toNat then level else old.getLsbD q.val) :
    latch = withPin old pin level := by
  apply BitVec.eq_of_getLsbD_eq
  intro i hi
  rw [h ⟨i, hi⟩]
  have := pinLevel_withPin old pin (BitVec.ofNat 3 i) level
  have hm : i % 8 = i := Nat.mod_eq_of_lt hi
  simpa [pinLevel, hm, ← BitVec.toNat_inj, eq_comm] using this.symm

/-- The operations that make nothing but pin writes run those pin writes. -/
theorem lcdProgram_pins {i : Instr} {ws : List (BitVec 3 × Bool)} (h : pinWritesOf Config.params i = some ws) :
    lcdProgram Config.params i = some (lcdProgramOf (pinStmts Config.params ws)) := by
  cases i <;> simp [pinWritesOf] at h <;> subst h <;> try rfl
  simp only [lcdProgram, lcdMessageBody, pinStmts, List.flatMap_assoc]; rfl

end Sys2Proof.Machine
end

