-- ==== Sys2Proof/Laws/Operands.lean ====
section
/-! SUPPORT. What the operand forms do: the signed range checks, the slices of legal operands, pixel masks, the display
setting; carrying an operation out in an idle unit with given answers; and row frames one after another. -/

namespace Sys2Proof.Machine

/-! ### Range checks -/

theorem inRange_true {lo hi : Int} {v : Word} : inRange lo hi v = true ↔ lo ≤ v.toInt ∧ v.toInt ≤ hi := by
  simp [inRange]

theorem inRange_false {lo hi : Int} {v : Word} : inRange lo hi v = false ↔ ¬ (lo ≤ v.toInt ∧ v.toInt ≤ hi) := by
  rw [← inRange_true]; simp

/-- A signed operand in `[0, n]` is an unsigned one of at most `n`. -/
theorem toInt_within {v : Word} {n : Nat} (hn : n < 2 ^ 31) : (0 ≤ v.toInt ∧ v.toInt ≤ n) ↔ v.toNat ≤ n := by
  have := v.isLt
  rw [BitVec.toInt_eq_toNat_cond]
  split <;> omega

theorem toNat_of_toInt {v : Word} {n : Nat} (hn : n < 2 ^ 31) (h : v.toInt = n) : v.toNat = n := by
  have := v.isLt
  rw [BitVec.toInt_eq_toNat_cond] at h
  split at h <;> omega

theorem pixelInGrid_true {x y : Word} :
    pixelInGrid x y = true ↔ (0 ≤ x.toInt ∧ x.toInt < 8) ∧ (0 ≤ y.toInt ∧ y.toInt < 8) := by
  simp [pixelInGrid, inRange]; omega

theorem pixelInGrid_false {x y : Word} :
    pixelInGrid x y = false ↔ ¬ ((0 ≤ x.toInt ∧ x.toInt < 8) ∧ (0 ≤ y.toInt ∧ y.toInt < 8)) := by
  rw [← pixelInGrid_true]; simp

theorem rowField_toNat {v : Word} (h : v.toNat < 8) : (rowField v).toNat = v.toNat := by
  simp [rowField]; omega

/-! ### Pixels -/

/-- Setting or clearing the mask of pixel `x` gives that bit the level and leaves the other seven. -/
theorem withMask_pixMask (v : Byte) (x : BitVec 3) (level : Bool) (k : Fin 8) :
    (withMask v (pixMask x) level).getLsbD (7 - k.val) = if k.val = x.toNat then level else v.getLsbD (7 - k.val) := by
  have hx : x.toNat < 8 := x.isLt
  have hk : 7 - k.val < 8 := by omega
  by_cases h : k.val = x.toNat
  · cases level <;> simp [withMask, pixMask, h]; omega
  · cases level <;> simp [withMask, pixMask, h, hk]
    all_goals omega

/-- Testing a pixel reads bit `7 - x` of row `y`. -/
theorem readPixel_bit (fb : Vector Byte 8) (x y : BitVec 3) :
    readPixel fb x y = (readRow fb y).getLsbD (7 - x.toNat) := by
  have key : ∀ (x : BitVec 3) (i : Fin 8), (pixMask x).getLsbD i.val = decide (i.val = 7 - x.toNat) := by decide
  generalize hr : readRow fb y = v
  have hv : v &&& pixMask x = if v.getLsbD (7 - x.toNat) then pixMask x else 0#8 := by
    apply BitVec.eq_of_getLsbD_eq
    intro i hi
    have := key x ⟨i, hi⟩
    split <;> by_cases h2 : i = 7 - x.toNat <;> simp_all
  simp only [readPixel, hr, hv]
  split
  · next h =>
    have hm : ∀ x, (pixMask x != 0#8) = true := by decide
    rw [h]; exact hm x
  · next h => simp at h; simp [h]

/-! ### SEG settings and MAT row commands -/

@[simp] theorem displaySetting_on (p : Params) (rate : BitVec 2) :
    displaySetting p rate true = BitVec.ofNat 4 (2 * rate.toNat) ||| p.segSetDisplayOn := by
  simp only [displaySetting, if_true]; congr 1

@[simp] theorem displaySetting_off (p : Params) : displaySetting p 0#2 false = p.segSetDisplayOff := by
  simp [displaySetting]

theorem rowCommand_ofNat (p : Params) (row : BitVec 3) :
    rowCommand p row = p.matCmdRowBase + BitVec.ofNat 8 row.toNat := by
  simp [rowCommand]

/-- Row frames whose answers are good: one frame each, and the run goes on to its end. -/
theorem run_frames_reliable (p : Params) (rows : List (BitVec 3)) (j : Nat) (d : MatData) (as : List Answer) :
    run (rows.flatMap (matRowBody p)) j d (reliable rows.length ++ as) =
      { data := d, events := rows.map (fun r => .busFrame (rowCommand p r) (readRow d.fb r)), answers := as,
        stop := .returned false } := by
  induction rows generalizing j with
  | nil => rfl
  | cons r rows ih =>
    change run (_ :: rows.flatMap (matRowBody p)) j d (.complete :: (reliable rows.length ++ as)) = _
    simp only [plainCall, run_call_complete, ih]; rfl

/-- Row frames with the bad answer at frame `k`: they end with that frame. -/
theorem run_frames_stop (p : Params) (rows : List (BitVec 3)) (j : Nat) (d : MatData) (k : Nat) (hk : k < rows.length)
    (as : List Answer) :
    run (rows.flatMap (matRowBody p)) j d (reliable k ++ .fail :: as) =
      { data := d, events := (rows.map (fun r => .busFrame (rowCommand p r) (readRow d.fb r))).take (k + 1),
        answers := as, stop := .raised .transportFailure } := by
  induction rows generalizing j k with
  | nil => simp at hk
  | cons r rows ih =>
    cases k with
    | zero =>
      change run (_ :: rows.flatMap (matRowBody p)) j d (.fail :: as) = _
      simp [plainCall, failStatus]
    | succ k =>
      change run (_ :: rows.flatMap (matRowBody p)) j d (.complete :: (reliable k ++ .fail :: as)) = _
      simp only [plainCall, run_call_complete, ih (hk := Nat.lt_of_succ_lt_succ hk)]; rfl

/-! ### An operation in an idle unit -/

/-- An operation of SEG with the unit idle leaves what its run leaves. -/
theorem exec_seg_idle {i : Instr} {pr : Program SegData} {s : State} {as : List Answer}
    (h : segProgram Config.params i = some pr) (hi : s.seg.isIdle = true) (ha : s.seg.port.answers = as) :
    exec i s = .next { s with seg := s.seg.settle i pr (run pr.body 0 s.seg.data as) } := by
  subst ha; rw [exec_seg h, startSeg, if_pos hi]; rfl

/-- An operation of MAT with the unit idle, a pixel operation inside the grid. -/
theorem exec_mat_idle {i : Instr} {pr : Program MatData} {s : State} {as : List Answer}
    (he : exec i s = startMat i pr s) (hi : s.mat.isIdle = true) (ha : s.mat.port.answers = as) :
    exec i s = .next { s with mat := s.mat.settle i pr (run pr.body 0 s.mat.data as) } := by
  subst ha; rw [he, startMat, if_pos hi]; rfl

/-- An operation of LCD with the unit idle. -/
theorem exec_lcd_idle {i : Instr} {pr : Program LcdData} {s : State} {as : List Answer}
    (h : lcdProgram Config.params i = some pr) (hi : s.lcd.isIdle = true) (ha : s.lcd.port.answers = as) :
    exec i s = .next { s with lcd := s.lcd.settle i pr (run pr.body 0 s.lcd.data as) } := by
  subst ha; rw [exec_lcd h, startLcd, if_pos hi]; rfl

end Sys2Proof.Machine
end

