-- ==== Sys2Proof/Laws/PerInstr.lean ====
section
/-! SUPPORT. Per-instruction facts about the encoding, one lemma for each constructor. -/

namespace Sys2Proof.Laws.RequestEncoding

/-- The request of an operation carries an opcode whose high nibble names the operation's unit; an emitted encoding
has no request (30_encoding.md R50 to R52). -/
def Statement (i : Instr) : Prop :=
  match encode i with
  | some r => i.isRequest = true ∧ unitOfOpcode r.opcode = some i.unit
  | none => i.isRequest = false

theorem segClear : Statement .segClear := ⟨rfl, (by decide : unitOfOpcode 0x10 = some .seg)⟩
theorem segRefresh : Statement .segRefresh := ⟨rfl, (by decide : unitOfOpcode 0x11 = some .seg)⟩
theorem segSetEnabled (enabled : Bool) : Statement (.segSetEnabled enabled) :=
  ⟨rfl, (by decide : unitOfOpcode 0x12 = some .seg)⟩
theorem segSetBlinkRate (rate : Word) : Statement (.segSetBlinkRate rate) :=
  ⟨rfl, (by decide : unitOfOpcode 0x13 = some .seg)⟩
theorem segSetBrightness (level : Word) : Statement (.segSetBrightness level) :=
  ⟨rfl, (by decide : unitOfOpcode 0x14 = some .seg)⟩
theorem segExecute (command setting : Word) : Statement (.segExecute command setting) :=
  ⟨rfl, (by decide : unitOfOpcode 0x15 = some .seg)⟩
theorem segWriteBuffer (index value : Word) : Statement (.segWriteBuffer index value) :=
  ⟨rfl, (by decide : unitOfOpcode 0x16 = some .seg)⟩
theorem matClear : Statement .matClear := ⟨rfl, (by decide : unitOfOpcode 0x20 = some .mat)⟩
theorem matRefresh : Statement .matRefresh := ⟨rfl, (by decide : unitOfOpcode 0x21 = some .mat)⟩
theorem matSetEnabled (enabled : Bool) : Statement (.matSetEnabled enabled) :=
  ⟨rfl, (by decide : unitOfOpcode 0x22 = some .mat)⟩
theorem matSetTestMode (enabled : Bool) : Statement (.matSetTestMode enabled) :=
  ⟨rfl, (by decide : unitOfOpcode 0x23 = some .mat)⟩
theorem matSetBrightness (level : Word) : Statement (.matSetBrightness level) :=
  ⟨rfl, (by decide : unitOfOpcode 0x24 = some .mat)⟩
theorem matSetPixel (x y : Word) (enabled : Bool) : Statement (.matSetPixel x y enabled) :=
  ⟨rfl, (by decide : unitOfOpcode 0x25 = some .mat)⟩
theorem matGetPixel (x y : Word) : Statement (.matGetPixel x y) := ⟨rfl, (by decide : unitOfOpcode 0x26 = some .mat)⟩
theorem matRefreshRow (row : Word) : Statement (.matRefreshRow row) :=
  ⟨rfl, (by decide : unitOfOpcode 0x27 = some .mat)⟩
theorem lcdInit : Statement .lcdInit := ⟨rfl, (by decide : unitOfOpcode 0x30 = some .lcd)⟩
theorem lcdWrite8 (byte : Byte) (isCharacterMode : Bool) : Statement (.lcdWrite8 byte isCharacterMode) :=
  ⟨rfl, (by decide : unitOfOpcode 0x31 = some .lcd)⟩
theorem lcdMessage (text : List Byte) : Statement (.lcdMessage text) :=
  ⟨rfl, (by decide : unitOfOpcode 0x32 = some .lcd)⟩
theorem lcdSetPin (pin : BitVec 3) (level : Bool) : Statement (.lcdSetPin pin level) :=
  ⟨rfl, (by decide : unitOfOpcode 0x33 = some .lcd)⟩
theorem lcdPulseEnable : Statement .lcdPulseEnable := ⟨rfl, (by decide : unitOfOpcode 0x34 = some .lcd)⟩
theorem lcdCommand (byte : Byte) : Statement (.lcdCommand byte) := ⟨rfl, (by decide : unitOfOpcode 0x35 = some .lcd)⟩
theorem segCmdbyte (command setting : Nibble) : Statement (.segCmdbyte command setting) := rfl
theorem segDisplayData : Statement .segDisplayData := rfl
theorem segSystemSetup (on : Bool) : Statement (.segSystemSetup on) := rfl
theorem segDisplaySetup (rate : BitVec 2) (on : Bool) : Statement (.segDisplaySetup rate on) := rfl
theorem segDimmingSet (level : Nibble) : Statement (.segDimmingSet level) := rfl
theorem matRow (row : BitVec 3) : Statement (.matRow row) := rfl
theorem matShutdown (run : Bool) : Statement (.matShutdown run) := rfl
theorem matDecodeMode : Statement .matDecodeMode := rfl
theorem matScanLimit : Statement .matScanLimit := rfl
theorem matIntensity (level : Byte) : Statement (.matIntensity level) := rfl
theorem matDisplayTest (on : Bool) : Statement (.matDisplayTest on) := rfl
theorem lcdLatch : Statement .lcdLatch := rfl
theorem lcdDirection : Statement .lcdDirection := rfl
theorem lcdLogicalCommand (byte : Byte) : Statement (.lcdLogicalCommand byte) := rfl

end Sys2Proof.Laws.RequestEncoding
end

