-- ==== Sys2Proof/Laws/Step.lean ====
section
/-! SUPPORT. Everything a step can do, once: going on from an outstanding call, resuming a unit, taking no request, and
the whole step. Proofs about `step` cite `step_cases` and do not unfold it. -/

namespace Sys2Proof.Machine

variable {D : Type}

/-- Going on starts at a call: without an answer nothing happens, a good answer runs the rest, a bad one ends it. -/
theorem goOn_cases {body : List (Stmt D)} {k : Nat} {d : D} {as : List Answer} {g : Progress D}
    (h : goOn body k d as = some g) :
    ∃ ev an rest, body = .call ev an :: rest ∧
      ((as = [] ∧ g = { data := d, events := [], answers := [], stop := .waiting k }) ∨
       (∃ as', as = .complete :: as' ∧ g = run rest (k + 1) (an .complete d) as') ∨
       (∃ as', as = .fail :: as' ∧
          g = { data := an .fail d, events := [], answers := as', stop := .raised (failStatus (ev d)) })) := by
  unfold goOn at h
  split at h
  · next ev an rest =>
    refine ⟨ev, an, rest, rfl, ?_⟩
    split at h <;> cases h
    · exact .inl ⟨rfl, rfl⟩
    · exact .inr (.inl ⟨_, rfl, rfl⟩)
    · exact .inr (.inr ⟨_, rfl, rfl⟩)
  all_goals cases h

/-- Going on keeps what every statement keeps: the registers have `P` and the further events are in `Q`. -/
theorem goOn_keeps (P : D → Prop) (Q : Event → Prop) (body : List (Stmt D))
    (hb : ∀ q ∈ body, match q with
      | .assign f => ∀ d, P d → P (f d)
      | .check _ => True
      | .ret _ => True
      | .call ev an => ∀ d, P d → Q (ev d) ∧ ∀ a, P (an a d))
    (k : Nat) (d : D) (as : List Answer) (hd : P d) (g : Progress D) (h : goOn body k d as = some g) :
    P g.data ∧ ∀ e ∈ g.events, Q e := by
  obtain ⟨ev, an, rest, rfl, ⟨-, rfl⟩ | ⟨as', -, rfl⟩ | ⟨as', -, rfl⟩⟩ := goOn_cases h
  · exact ⟨hd, by simp⟩
  · have han := (hb _ List.mem_cons_self d hd).2 .complete
    exact run_keeps P Q rest (fun q hq => hb q (List.mem_cons_of_mem _ hq)) (k + 1) _ as' han
  · exact ⟨(hb _ List.mem_cons_self d hd).2 .fail, by simp⟩

/-- A unit that goes on is in the middle of one of its own operations, at a call, and is left as the run from there
leaves it. -/
theorem goOnWith_cases {programs : Instr → Option (Program D)} {u v : Driver D} (h : u.goOnWith programs = some v) :
    ∃ op k pr g, u.port.seq = .busy op k ∧ programs op = some pr ∧
      goOn (pr.body.drop k) k u.data u.port.answers = some g ∧ v = u.settle op pr g := by
  unfold Driver.goOnWith at h
  split at h
  · cases h
  · next op k hs =>
    split at h
    · cases h
    · next pr hp =>
      unfold Driver.resume at h
      split at h
      · cases h
      · next g hg => cases h; exact ⟨op, k, pr, g, hs, hp, hg, rfl⟩

/-- A step that takes no request: one unit whose answer has come goes on, or nothing changes. -/
theorem goOnOrWait_cases {s t : State} (h : goOnOrWait s = .next t) :
    (∃ u, s.seg.answerReady = true ∧ s.seg.goOnWith (segProgram Config.params) = some u ∧ t = { s with seg := u }) ∨
    (∃ u, s.mat.answerReady = true ∧ s.mat.goOnWith (matProgram Config.params) = some u ∧ t = { s with mat := u }) ∨
    (∃ u, s.lcd.answerReady = true ∧ s.lcd.goOnWith (lcdProgram Config.params) = some u ∧ t = { s with lcd := u }) ∨
    t = s := by
  unfold goOnOrWait resumeSeg resumeMat resumeLcd at h
  split at h
  · next hr =>
    split at h <;> cases h
    next u hu => exact .inl ⟨u, hr, hu, rfl⟩
  · split at h
    · next hr =>
      split at h <;> cases h
      next u hu => exact .inr (.inl ⟨u, hr, hu, rfl⟩)
    · split at h
      · next hr =>
        split at h <;> cases h
        next u hu => exact .inr (.inr (.inl ⟨u, hr, hu, rfl⟩))
      · cases h
        exact .inr (.inr (.inr rfl))

/-- Everything a step that answers a next state can have done. -/
theorem step_cases {s t : State} (h : step s = .next t) :
    (∃ r rest i, s.requests = r :: rest ∧ decode r = .operation i ∧ s.unitIdle i.unit = true ∧
      exec i { s with requests := rest } = .next t) ∨
    (∃ r rest opcode, s.requests = r :: rest ∧ decode r = .reserved opcode ∧ reservedReady opcode s = true ∧
      t = answerReserved opcode { s with requests := rest }) ∨
    goOnOrWait s = .next t := by
  unfold step fetch at h
  split at h
  · next i s' hf =>
    split at hf
    · cases hf
    · next r rest hr =>
      split at hf
      · next j hd =>
        split at hf <;> cases hf
        next hi => exact .inl ⟨r, rest, i, hr, hd, hi, h⟩
      · split at hf <;> cases hf
  · next o hf =>
    split at hf
    · cases hf
      exact .inr (.inr h)
    · next r rest hr =>
      split at hf
      · split at hf <;> cases hf
        exact .inr (.inr h)
      · next opcode hd =>
        split at hf <;> cases hf
        · next hready =>
          cases h
          exact .inr (.inl ⟨r, rest, opcode, hr, hd, hready, rfl⟩)
        · exact .inr (.inr h)

/-! ### What `settle` keeps -/

/-- The registers an operation leaves have what its run's registers have, if its exceptions keep it. -/
theorem settle_data {P : D → Prop} (u : Driver D) (op : Instr) (pr : Program D) (g : Progress D) (hg : P g.data)
    (hx : ∀ d, P d → P (pr.onException d)) : P (u.settle op pr g).data := by
  obtain ⟨d, es, as, st⟩ := g
  cases st with
  | returned v => exact hg
  | raised st => cases st <;> first | exact hg | exact hx _ hg
  | waiting k => exact hg

/-- An operation appends its run's events to the trace. -/
theorem settle_trace (u : Driver D) (op : Instr) (pr : Program D) (g : Progress D) :
    (u.settle op pr g).port.trace = u.port.trace ++ g.events := by
  obtain ⟨d, es, as, st⟩ := g
  cases st <;> rfl

end Sys2Proof.Machine
end

