-- ==== Sys2Proof/Tests/Slice0.lean ====
section
/-! SUPPORT. Tests. Every expected value stands in spec/: the vectors of 95_test_vectors.md (whose numbers use the
default parameters of 00_scope.md section 4), the opcode table, the encodings of 30_encoding.md. Then the witnesses: for
each statement with hypotheses, concrete states and operands that meet them, for each clause. -/

namespace Sys2Proof.Tests

open Sys2Proof.Machine

/-! ### Well-formedness: an ill-formed term for each check -/

/-- 30_encoding.md R56 (c): no display-setup byte has the display off and a blink rate. -/
theorem test_illformed_display_setup : Instr.WellFormed (.segDisplaySetup 1 false) = false := by decide
/-- 30_encoding.md R57: no intensity frame has a level above 15. -/
theorem test_illformed_intensity : Instr.WellFormed (.matIntensity 16) = false := by decide
/-- The neighbours of the two are well-formed. -/
theorem test_wellformed_neighbours :
    Instr.WellFormed (.segDisplaySetup 0 false) = true ∧ Instr.WellFormed (.segDisplaySetup 3 true) = true ∧
    Instr.WellFormed (.matIntensity 15) = true ∧ Instr.WellFormed (.segSetBlinkRate 4) = true := by decide

/-! ### Request words, written from the table of 30_encoding.md R51 and the fields of R50, R52 -/

/-- SEG opcodes 0x10 to 0x16. -/
theorem test_decode_seg :
    decodeTableWord 8 0b00010000 = some .segClear ∧ decodeTableWord 8 0b00010001 = some .segRefresh ∧
    decodeTableWord 80 (0b00010010 + 2 ^ 72) = some (.segSetEnabled true) ∧
    decodeTableWord 8 0b00010010 = some (.segSetEnabled false) ∧
    decodeTableWord 40 (0b00010011 + 3 * 2 ^ 8) = some (.segSetBlinkRate 3) ∧
    decodeTableWord 40 (0b00010100 + 15 * 2 ^ 8) = some (.segSetBrightness 15) ∧
    decodeTableWord 72 (0b00010101 + 14 * 2 ^ 8 + 7 * 2 ^ 40) = some (.segExecute 14 7) ∧
    decodeTableWord 72 (0b00010110 + 2 * 2 ^ 8 + 0x5B * 2 ^ 40) = some (.segWriteBuffer 2 0x5B) := by decide

/-- MAT opcodes 0x20 to 0x27. -/
theorem test_decode_mat :
    decodeTableWord 8 0b00100000 = some .matClear ∧ decodeTableWord 8 0b00100001 = some .matRefresh ∧
    decodeTableWord 80 (0b00100010 + 2 ^ 72) = some (.matSetEnabled true) ∧
    decodeTableWord 80 (0b00100011 + 2 ^ 72) = some (.matSetTestMode true) ∧
    decodeTableWord 40 (0b00100100 + (2 ^ 32 - 1) * 2 ^ 8) = some (.matSetBrightness (-1)) ∧
    decodeTableWord 80 (0b00100101 + 7 * 2 ^ 8 + 2 ^ 72) = some (.matSetPixel 7 0 true) ∧
    decodeTableWord 72 (0b00100110 + 6 * 2 ^ 8 + 7 * 2 ^ 40) = some (.matGetPixel 6 7) ∧
    decodeTableWord 40 (0b00100111 + 8 * 2 ^ 8) = some (.matRefreshRow 8) := by decide

/-- LCD opcodes 0x30 to 0x35; V-LCD-5 (`u3` takes bits 2:0), V-LCD-16 (`u8` takes bits 7:0), V-LCD-18 (`flag` is no
operand of `command`), V-LCD-20 (the text of "Hi"). -/
theorem test_decode_lcd :
    decodeTableWord 8 0b00110000 = some .lcdInit ∧
    decodeTableWord 80 (0b00110001 + 0x141 * 2 ^ 8 + 2 ^ 72) = some (.lcdWrite8 0x41 true) ∧
    decodeTableWord 96 (0b00110010 + 0x48 * 2 ^ 80 + 0x69 * 2 ^ 88) = some (.lcdMessage [0x48, 0x69]) ∧
    decodeTableWord 8 0b00110010 = some (.lcdMessage []) ∧
    decodeTableWord 80 (0b00110011 + 15 * 2 ^ 8 + 2 ^ 72) = some (.lcdSetPin 7 true) ∧
    decodeTableWord 8 0b00110100 = some .lcdPulseEnable ∧
    decodeTableWord 80 (0b00110101 + 0x01 * 2 ^ 8 + 2 ^ 72) = some (.lcdCommand 0x01) := by decide

/-- The opcodes next to the listed ones are reserved (30_encoding.md R61). -/
theorem test_decode_reserved :
    decodeTableWord 8 0x0F = none ∧ decodeTableWord 8 0x17 = none ∧ decodeTableWord 8 0x1F = none ∧
    decodeTableWord 8 0x28 = none ∧ decodeTableWord 8 0x2F = none ∧ decodeTableWord 8 0x36 = none ∧
    decodeTableWord 8 0xFF = none := by decide

/-! ### Emitted encodings, with the default values of the opcode table -/

/-- The strobes of SEG, written (30_encoding.md R55, R56). -/
theorem test_emitted_seg :
    emittedEvent defaultParams (.segCmdbyte 0xA 0x5) 0 = some (.busStrobe 0xA5) ∧
    emittedEvent defaultParams .segDisplayData 0 = some (.busStrobe 0x00) ∧
    emittedEvent defaultParams (.segSystemSetup true) 0 = some (.busStrobe 0x21) ∧
    emittedEvent defaultParams (.segSystemSetup false) 0 = some (.busStrobe 0x20) ∧
    emittedEvent defaultParams (.segDisplaySetup 0 false) 0 = some (.busStrobe 0x80) ∧
    emittedEvent defaultParams (.segDisplaySetup 3 true) 0 = some (.busStrobe 0x87) ∧
    emittedEvent defaultParams (.segDimmingSet 15) 0 = some (.busStrobe 0xEF) := by decide

/-- The same bytes, read. -/
theorem test_read_seg :
    readEvent defaultParams (.busStrobe 0xA5) = some (.segCmdbyte 0xA 0x5) ∧
    readEvent defaultParams (.busStrobe 0x00) = some .segDisplayData ∧
    readEvent defaultParams (.busStrobe 0x21) = some (.segSystemSetup true) ∧
    readEvent defaultParams (.busStrobe 0x20) = some (.segSystemSetup false) ∧
    readEvent defaultParams (.busStrobe 0x80) = some (.segDisplaySetup 0 false) ∧
    readEvent defaultParams (.busStrobe 0x85) = some (.segDisplaySetup 2 true) ∧
    readEvent defaultParams (.busStrobe 0xE7) = some (.segDimmingSet 7) := by decide

/-- The frames of MAT, written (30_encoding.md R57). -/
theorem test_emitted_mat :
    emittedEvent defaultParams (.matRow 0) 0x81 = some (.busFrame 0x01 0x81) ∧
    emittedEvent defaultParams (.matRow 7) 0x08 = some (.busFrame 0x08 0x08) ∧
    emittedEvent defaultParams (.matShutdown true) 0 = some (.busFrame 0x0C 0x01) ∧
    emittedEvent defaultParams (.matShutdown false) 0 = some (.busFrame 0x0C 0x00) ∧
    emittedEvent defaultParams .matDecodeMode 0 = some (.busFrame 0x09 0x00) ∧
    emittedEvent defaultParams .matScanLimit 0 = some (.busFrame 0x0B 0x07) ∧
    emittedEvent defaultParams (.matIntensity 15) 0 = some (.busFrame 0x0A 0x0F) ∧
    emittedEvent defaultParams (.matDisplayTest true) 0 = some (.busFrame 0x0F 0x01) ∧
    emittedEvent defaultParams (.matDisplayTest false) 0 = some (.busFrame 0x0F 0x00) := by decide

/-- The same frames, read; a row frame gives its row, and a command of none of the rows is none. -/
theorem test_read_mat :
    readEvent defaultParams (.busFrame 0x01 0x81) = some (.matRow 0) ∧
    readEvent defaultParams (.busFrame 0x08 0x08) = some (.matRow 7) ∧
    readEvent defaultParams (.busFrame 0x0C 0x01) = some (.matShutdown true) ∧
    readEvent defaultParams (.busFrame 0x0C 0x00) = some (.matShutdown false) ∧
    readEvent defaultParams (.busFrame 0x09 0x00) = some .matDecodeMode ∧
    readEvent defaultParams (.busFrame 0x0B 0x07) = some .matScanLimit ∧
    readEvent defaultParams (.busFrame 0x0A 0x0F) = some (.matIntensity 15) ∧
    readEvent defaultParams (.busFrame 0x0A 0x10) = none ∧
    readEvent defaultParams (.busFrame 0x0F 0x01) = some (.matDisplayTest true) ∧
    readEvent defaultParams (.busFrame 0x0F 0x00) = some (.matDisplayTest false) ∧
    readEvent defaultParams (.busFrame 0x0D 0x00) = none := by decide

/-- The two expander writes of LCD, written and read (30_encoding.md R59, 42_lcd.md R115). -/
theorem test_emitted_lcd :
    emittedEvent defaultParams .lcdLatch 0x9C = some (.busReg 0x09 0x9C) ∧
    emittedEvent defaultParams .lcdDirection 0 = some (.busReg 0x00 0x00) ∧
    readEvent defaultParams (.busReg 0x09 0x9C) = some .lcdLatch ∧
    readEvent defaultParams (.busReg 0x00 0x00) = some .lcdDirection ∧
    readEvent defaultParams (.busReg 0x0A 0x00) = none := by decide

/-- The composed bytes of the initialization (30_encoding.md R60). -/
theorem test_composed_bytes :
    defaultParams.initDisplayControl = 0x0E ∧ defaultParams.initFunctionSet = 0x28 ∧
    defaultParams.initEntryMode = 0x06 ∧ defaultParams.unusedPin = some 0 := by decide

/-! ### SEG vectors (95_test_vectors.md section 2.1), with the default parameters -/

/-- What an operation leaves in a fresh SEG with the given registers and answers. -/
def segResult (d : SegData) (as : List Answer) (op : Instr) : Option (SegData × List Event × Status × Bool) :=
  (segProgram defaultParams op).map (fun pr =>
    let u : Driver SegData := Driver.launch { data := d, port := { Port.reset with answers := as } } op pr
    (u.data, u.port.trace, u.port.status, u.port.value))

/-- The framebuffer `[3F 00 06 00 ...]`. -/
def segFb : Vector Byte 16 := #v[0x3F, 0, 0x06, 0, 0, 0, 0, 0, 0, 0, 0, 0, 0, 0, 0, 0]

/-- Registers of SEG with that framebuffer. -/
def segRegs (life : Life) : SegData := { fb := segFb, life := life }

/-- V-SEG-15. -/
theorem test_seg_clear :
    segResult (segRegs .enabled) [] .segClear = some (⟨Vector.replicate 16 0, .enabled⟩, [], .ok, false) := by decide
/-- V-SEG-14. -/
theorem test_seg_refresh :
    segResult (segRegs .unknown) (reliable 2) .segRefresh = some (segRegs .unknown,
      [.busStrobe 0x00, .busBulk 0x00 [0x3F, 0, 0x06, 0, 0, 0, 0, 0, 0, 0, 0, 0, 0, 0, 0, 0] 16], .ok, false) := by
  decide
/-- V-SEG-18. -/
theorem test_seg_refresh_fails :
    segResult (segRegs .enabled) [.complete, .fail] .segRefresh = some (segRegs .enabled,
      [.busStrobe 0x00, .busBulk 0x00 segFb.toList 16], .transportFailure, false) := by decide
/-- V-SEG-1, V-SEG-2. -/
theorem test_seg_set_enabled :
    segResult (segRegs .unknown) (reliable 2) (.segSetEnabled true) =
      some (segRegs .enabled, [.busStrobe 0x21, .busStrobe 0x81], .ok, false) ∧
    segResult (segRegs .enabled) (reliable 2) (.segSetEnabled false) =
      some (segRegs .disabled, [.busStrobe 0x20, .busStrobe 0x80], .ok, false) := by decide
/-- V-SEG-17. -/
theorem test_seg_set_enabled_fails :
    segResult (segRegs .enabled) [.fail] (.segSetEnabled true) =
      some (segRegs .unknown, [.busStrobe 0x21], .transportFailure, false) := by decide
/-- V-SEG-3. -/
theorem test_seg_blink_rate :
    segResult (segRegs .disabled) [.complete] (.segSetBlinkRate 2) =
      some (segRegs .disabled, [.busStrobe 0x85], .ok, false) ∧
    segResult (segRegs .disabled) [.complete] (.segSetBlinkRate 3) =
      some (segRegs .disabled, [.busStrobe 0x87], .ok, false) := by decide
/-- V-SEG-4: 4, -1, the greatest and the least 32-bit integer. -/
theorem test_seg_blink_rate_invalid :
    segResult (segRegs .enabled) [.complete] (.segSetBlinkRate 4) =
      some (segRegs .enabled, [], .invalidArgument, false) ∧
    segResult (segRegs .enabled) [.complete] (.segSetBlinkRate 0xFFFFFFFF) =
      some (segRegs .enabled, [], .invalidArgument, false) ∧
    segResult (segRegs .enabled) [.complete] (.segSetBlinkRate 0x7FFFFFFF) =
      some (segRegs .enabled, [], .invalidArgument, false) ∧
    segResult (segRegs .enabled) [.complete] (.segSetBlinkRate 0x80000000) =
      some (segRegs .enabled, [], .invalidArgument, false) :=
  ⟨by decide, by decide, by decide, by decide⟩
/-- V-SEG-5. -/
theorem test_seg_brightness :
    segResult (segRegs .enabled) [.complete] (.segSetBrightness 15) =
      some (segRegs .enabled, [.busStrobe 0xEF], .ok, false) ∧
    segResult (segRegs .enabled) [.complete] (.segSetBrightness 0) =
      some (segRegs .enabled, [.busStrobe 0xE0], .ok, false) := by decide
/-- V-SEG-6: 16, -1 and 256. -/
theorem test_seg_brightness_invalid :
    segResult (segRegs .enabled) [.complete] (.segSetBrightness 16) =
      some (segRegs .enabled, [], .invalidArgument, false) ∧
    segResult (segRegs .enabled) [.complete] (.segSetBrightness 0xFFFFFFFF) =
      some (segRegs .enabled, [], .invalidArgument, false) ∧
    segResult (segRegs .enabled) [.complete] (.segSetBrightness 256) =
      some (segRegs .enabled, [], .invalidArgument, false) := by decide
/-- V-SEG-8, V-SEG-9. -/
theorem test_seg_execute :
    segResult (segRegs .enabled) [.complete] (.segExecute 15 15) =
      some (segRegs .enabled, [.busStrobe 0xFF], .ok, false) ∧
    segResult (segRegs .enabled) [.complete] (.segExecute 10 5) =
      some (segRegs .enabled, [.busStrobe 0xA5], .ok, false) := by decide
/-- V-SEG-10. -/
theorem test_seg_execute_invalid :
    segResult (segRegs .enabled) [.complete] (.segExecute 16 0) =
      some (segRegs .enabled, [], .invalidArgument, false) ∧
    segResult (segRegs .enabled) [.complete] (.segExecute 0 16) =
      some (segRegs .enabled, [], .invalidArgument, false) ∧
    segResult (segRegs .enabled) [.complete] (.segExecute 0xFFFFFFFF 3) =
      some (segRegs .enabled, [], .invalidArgument, false) ∧
    segResult (segRegs .enabled) [.complete] (.segExecute 3 0xFFFFFFFF) =
      some (segRegs .enabled, [], .invalidArgument, false) :=
  ⟨by decide, by decide, by decide, by decide⟩
/-- V-SEG-12, and the example of R77. -/
theorem test_seg_write_buffer :
    segResult (segRegs .enabled) [] (.segWriteBuffer 15 255) =
      some (⟨#v[0x3F, 0, 0x06, 0, 0, 0, 0, 0, 0, 0, 0, 0, 0, 0, 0, 0xFF], .enabled⟩, [], .ok, false) ∧
    segResult (segRegs .enabled) [] (.segWriteBuffer 2 0x5B) =
      some (⟨#v[0x3F, 0, 0x5B, 0, 0, 0, 0, 0, 0, 0, 0, 0, 0, 0, 0, 0], .enabled⟩, [], .ok, false) := by decide
/-- V-SEG-13. -/
theorem test_seg_write_buffer_invalid :
    segResult (segRegs .enabled) [] (.segWriteBuffer 16 0) =
      some (segRegs .enabled, [], .invalidArgument, false) ∧
    segResult (segRegs .enabled) [] (.segWriteBuffer 0xFFFFFFFF 0) =
      some (segRegs .enabled, [], .invalidArgument, false) ∧
    segResult (segRegs .enabled) [] (.segWriteBuffer 0 256) =
      some (segRegs .enabled, [], .invalidArgument, false) ∧
    segResult (segRegs .enabled) [] (.segWriteBuffer 0 0xFFFFFFFF) =
      some (segRegs .enabled, [], .invalidArgument, false) :=
  ⟨by decide, by decide, by decide, by decide⟩

/-! ### MAT vectors (section 2.2) -/

/-- What an operation leaves in a fresh MAT with the given registers and answers. -/
def matResult (d : MatData) (as : List Answer) (op : Instr) : Option (MatData × List Event × Status × Bool) :=
  (matProgram defaultParams op).map (fun pr =>
    let u : Driver MatData := Driver.launch { data := d, port := { Port.reset with answers := as } } op pr
    (u.data, u.port.trace, u.port.status, u.port.value))

/-- Registers of MAT with the framebuffer `[01 02 03 04 05 06 07 08]`. -/
def matRegs (life : Life) : MatData := { fb := #v[1, 2, 3, 4, 5, 6, 7, 8], life := life }

/-- V-MAT-15. -/
theorem test_mat_clear :
    matResult (matRegs .enabled) [] .matClear = some (⟨Vector.replicate 8 0, .enabled⟩, [], .ok, false) := by decide
/-- V-MAT-13. -/
theorem test_mat_refresh :
    matResult (matRegs .enabled) (reliable 8) .matRefresh = some (matRegs .enabled,
      [.busFrame 1 1, .busFrame 2 2, .busFrame 3 3, .busFrame 4 4, .busFrame 5 5, .busFrame 6 6, .busFrame 7 7,
        .busFrame 8 8], .ok, false) := by decide
/-- V-MAT-14. -/
theorem test_mat_refresh_fails :
    matResult (matRegs .enabled) (reliable 3 ++ [.fail]) .matRefresh = some (matRegs .enabled,
      [.busFrame 1 1, .busFrame 2 2, .busFrame 3 3, .busFrame 4 4], .transportFailure, false) := by decide
/-- V-MAT-9, V-MAT-10. -/
theorem test_mat_set_enabled :
    matResult (matRegs .unknown) (reliable 3) (.matSetEnabled true) = some (matRegs .enabled,
      [.busFrame 0x0C 0x01, .busFrame 0x09 0x00, .busFrame 0x0B 0x07], .ok, false) ∧
    matResult (matRegs .enabled) (reliable 1) (.matSetEnabled false) =
      some (matRegs .disabled, [.busFrame 0x0C 0x00], .ok, false) := by decide
/-- Program P3, request 1. -/
theorem test_mat_set_enabled_fails :
    matResult (matRegs .enabled) [.complete, .fail] (.matSetEnabled true) = some (matRegs .unknown,
      [.busFrame 0x0C 0x01, .busFrame 0x09 0x00], .transportFailure, false) := by decide
/-- V-MAT-8. -/
theorem test_mat_test_mode :
    matResult (matRegs .enabled) [.complete] (.matSetTestMode true) =
      some (matRegs .enabled, [.busFrame 0x0F 0x01], .ok, false) ∧
    matResult (matRegs .enabled) [.complete] (.matSetTestMode false) =
      some (matRegs .enabled, [.busFrame 0x0F 0x00], .ok, false) := by decide
/-- V-MAT-7, the legal levels. -/
theorem test_mat_brightness :
    matResult (matRegs .enabled) [.complete] (.matSetBrightness 0) =
      some (matRegs .enabled, [.busFrame 0x0A 0x00], .ok, false) ∧
    matResult (matRegs .enabled) [.complete] (.matSetBrightness 15) =
      some (matRegs .enabled, [.busFrame 0x0A 0x0F], .ok, false) := by decide
/-- V-MAT-7, the others. -/
theorem test_mat_brightness_invalid :
    matResult (matRegs .enabled) [.complete] (.matSetBrightness 16) =
      some (matRegs .enabled, [], .invalidArgument, false) ∧
    matResult (matRegs .enabled) [.complete] (.matSetBrightness 0xFFFFFFFF) =
      some (matRegs .enabled, [], .invalidArgument, false) := by decide
/-- V-MAT-2 and V-MAT-3. -/
theorem test_mat_set_pixel :
    matResult ⟨#v[0x80, 0, 0, 0, 0, 0, 0, 0], .unknown⟩ [] (.matSetPixel 7 0 true) =
      some (⟨#v[0x81, 0, 0, 0, 0, 0, 0, 0], .unknown⟩, [], .ok, false) ∧
    matResult ⟨#v[0, 0, 0, 0xFF, 0, 0, 0, 0], .unknown⟩ [] (.matSetPixel 2 3 false) =
      some (⟨#v[0, 0, 0, 0xDF, 0, 0, 0, 0], .unknown⟩, [], .ok, false) := by decide
/-- V-MAT-6: outside the grid the request is refused, by `exec` itself. -/
theorem test_mat_pixel_refused :
    exec (.matSetPixel 8 0 true) .reset = .refused .outsidePrecondition ∧
    exec (.matSetPixel 0 (-1) true) .reset = .refused .outsidePrecondition ∧
    exec (.matGetPixel 0 8) .reset = .refused .outsidePrecondition := ⟨rfl, rfl, rfl⟩
/-- V-MAT-5. -/
theorem test_mat_get_pixel :
    matResult ⟨#v[0, 0, 0, 0, 0, 0, 0, 1], .unknown⟩ [] (.matGetPixel 7 7) =
      some (⟨#v[0, 0, 0, 0, 0, 0, 0, 1], .unknown⟩, [], .ok, true) ∧
    matResult ⟨#v[0, 0, 0, 0, 0, 0, 0, 1], .unknown⟩ [] (.matGetPixel 6 7) =
      some (⟨#v[0, 0, 0, 0, 0, 0, 0, 1], .unknown⟩, [], .ok, false) := by decide
/-- V-MAT-11. -/
theorem test_mat_refresh_row :
    matResult (matRegs .enabled) [.complete] (.matRefreshRow 0) =
      some (matRegs .enabled, [.busFrame 0x01 0x01], .ok, false) ∧
    matResult (matRegs .enabled) [.complete] (.matRefreshRow 7) =
      some (matRegs .enabled, [.busFrame 0x08 0x08], .ok, false) := by decide
/-- V-MAT-12. -/
theorem test_mat_refresh_row_invalid :
    matResult (matRegs .enabled) [.complete] (.matRefreshRow 8) =
      some (matRegs .enabled, [], .invalidArgument, false) ∧
    matResult (matRegs .enabled) [.complete] (.matRefreshRow 0xFFFFFFFF) =
      some (matRegs .enabled, [], .invalidArgument, false) ∧
    matResult (matRegs .enabled) [.complete] (.matRefreshRow 0x7FFFFFFF) =
      some (matRegs .enabled, [], .invalidArgument, false) :=
  ⟨by decide, by decide, by decide⟩

/-! ### LCD vectors (section 2.3) -/

/-- The unit after an operation, from a latch that the device agrees with, READY. -/
def lcdUnit (latch : Byte) (as : List Answer) (op : Instr) : Option (Driver LcdData) :=
  (lcdProgram defaultParams op).map (fun pr =>
    Driver.launch { data := ⟨latch, .ready, some latch⟩, port := { Port.reset with answers := as } } op pr)

/-- The latch values an operation writes, its registers after, and its status. -/
def lcdResult (latch : Byte) (as : List Answer) (op : Instr) : Option (List Byte × LcdData × Status) :=
  (lcdUnit latch as op).map (fun u => (latchValues defaultParams u.port.trace, u.data, u.port.status))

/-- V-LCD-3, V-LCD-4. -/
theorem test_lcd_set_pin :
    lcdResult 0x80 (reliable 2) (.lcdSetPin 0 true) = some ([0x81], ⟨0x81, .ready, some 0x81⟩, .ok) ∧
    lcdResult 0x81 (reliable 2) (.lcdSetPin 7 false) = some ([0x01], ⟨0x01, .ready, some 0x01⟩, .ok) := by decide
/-- V-LCD-7. -/
theorem test_lcd_pulse :
    lcdResult 0x84 (reliable 6) .lcdPulseEnable = some ([0x80, 0x84, 0x80], ⟨0x80, .ready, some 0x80⟩, .ok) := by
  decide
/-- V-LCD-25. -/
theorem test_lcd_pulse_interrupted :
    (lcdUnit 0x80 [.complete, .complete, .complete, .fail] .lcdPulseEnable).map
        (fun u => (u.port.trace, u.data, u.port.status)) =
      some ([.busReg 0x09 0x80, .delay .pulse, .busReg 0x09 0x84, .delay .pulse], ⟨0x84, .unknown, some 0x84⟩,
        .interrupted) := by decide
/-- V-LCD-8. -/
theorem test_lcd_write8 :
    lcdResult 0x80 (reliable 30) (.lcdWrite8 0x41 true) = some (
      [0x82, 0x82, 0x82, 0xA2, 0xA2, 0xA2, 0xA6, 0xA2, 0xAA, 0xAA, 0x8A, 0x8A, 0x8A, 0x8E, 0x8A],
      ⟨0x8A, .ready, some 0x8A⟩, .ok) := by decide
/-- V-LCD-23. -/
theorem test_lcd_write8_fails :
    lcdResult 0x90 (reliable 12 ++ [.fail]) (.lcdWrite8 0x41 true) = some (
      [0x92, 0x92, 0x82, 0xA2, 0xA2, 0xA2, 0xA6], ⟨0xA6, .unknown, none⟩, .transportFailure) := by decide
/-- V-LCD-17. -/
theorem test_lcd_command :
    lcdResult 0x80 (reliable 30) (.lcdCommand 0x01) = some (
      [0x80, 0x80, 0x80, 0x80, 0x80, 0x80, 0x84, 0x80, 0x88, 0x88, 0x88, 0x88, 0x88, 0x8C, 0x88],
      ⟨0x88, .ready, some 0x88⟩, .ok) := by decide
/-- V-LCD-20. -/
theorem test_lcd_message :
    lcdResult 0x90 (reliable 60) (.lcdMessage [0x48, 0x69]) = some (
      [0x92, 0x92, 0x82, 0xA2, 0xA2, 0xA2, 0xA6, 0xA2, 0xA2, 0xA2, 0x82, 0xC2, 0xC2, 0xC6, 0xC2] ++
      [0xC2, 0xC2, 0xD2, 0xF2, 0xB2, 0xB2, 0xB6, 0xB2, 0xBA, 0xAA, 0x8A, 0xCA, 0xCA, 0xCE, 0xCA],
      ⟨0xCA, .ready, some 0xCA⟩, .ok) := by decide
/-- V-LCD-19. -/
theorem test_lcd_message_empty :
    lcdResult 0x90 [] (.lcdMessage []) = some ([], ⟨0x90, .ready, some 0x90⟩, .ok) := by decide
/-- V-LCD-21, program P4 request 1: 215 events, the end state, and the nibbles on the data lines while enable is
high. -/
theorem test_lcd_init :
    (lcdUnit 0x00 (reliable 215) .lcdInit).map (fun u => (u.port.trace.length, u.data, u.port.status)) =
      some (215, ⟨0x90, .ready, some 0x90⟩, .ok) ∧
    (lcdUnit 0x00 (reliable 215) .lcdInit).map
        (fun u => (strobed defaultParams (latchValues defaultParams u.port.trace)).map Prod.snd) =
      some [3, 3, 3, 2, 0, 0xE, 2, 8, 0, 6, 0, 1, 0, 2] := by decide +kernel
/-- V-LCD-27: the first settle delay is interrupted. -/
theorem test_lcd_init_interrupted :
    (lcdUnit 0x00 (reliable 183 ++ [.fail]) .lcdInit).map (fun u => (u.port.trace.length, u.data, u.port.status)) =
      some (184, ⟨0x88, .unknown, some 0x88⟩, .interrupted) := by decide +kernel

/-! ### One step of the machine -/

/-- The block right after reset with some answers for one unit. -/
def fresh (u : UnitId) (as : List Answer) : State := State.reset.withAnswers u as

/-- A placed request runs in the next step: `SEG.setBrightness` of 16 is answered INVALID_ARGUMENT (V-SEG-6). -/
theorem test_step_placed :
    ∃ t, step (State.reset.withFetchWord 40 (0x14 + 16 * 2 ^ 8)) = .next t ∧
      t.seg.port.responses = [⟨.invalidArgument, false⟩] ∧ t.seg.port.trace = [] := ⟨_, rfl, rfl, rfl⟩
/-- Reserved opcodes: 0x2A is answered by MAT (program P3, request 6), 0x00 by the decoder (program P5, request 11). -/
theorem test_step_reserved :
    (∃ t, step (State.reset.withFetchWord 8 0x2A) = .next t ∧ t.mat.port.status = .unknownOperation) ∧
    (∃ t, step (State.reset.withFetchWord 8 0x00) = .next t ∧ t.decoderResponses = [⟨.unknownOperation, false⟩]) :=
  ⟨⟨_, rfl, rfl⟩, ⟨_, rfl, rfl⟩⟩
/-- With no request and no answer a step changes nothing (20_memory.md R35). -/
theorem test_step_waits : step .reset = .next .reset := rfl

/-! ### The emitted encodings on their own: one transaction each (log entry 8), with the default bytes of the table -/

/-- SEG. -/
theorem test_meaning_emitted_seg :
    segResult (segRegs .unknown) [.complete] .segDisplayData =
      some (segRegs .unknown, [.busStrobe 0x00], .ok, false) ∧
    segResult (segRegs .unknown) [.complete] (.segDimmingSet 7) =
      some (segRegs .unknown, [.busStrobe 0xE7], .ok, false) := by decide
/-- MAT: a row frame carries the row byte. -/
theorem test_meaning_emitted_mat :
    matResult (matRegs .unknown) [.complete] (.matRow 7) =
      some (matRegs .unknown, [.busFrame 0x08 0x08], .ok, false) ∧
    matResult (matRegs .unknown) [.complete] .matScanLimit =
      some (matRegs .unknown, [.busFrame 0x0B 0x07], .ok, false) := by decide
/-- LCD: a latch write puts out the latch. -/
theorem test_meaning_emitted_lcd :
    lcdResult 0x9C [.complete] .lcdLatch = some ([0x9C], ⟨0x9C, .ready, some 0x9C⟩, .ok) ∧
    lcdResult 0x9C [.complete] .lcdDirection = some ([], ⟨0x9C, .ready, some 0x9C⟩, .ok) := by decide

/-! ### Witnesses: states and operands that meet the hypotheses of each statement, for each clause -/

/-- The block with SEG in the middle of a refresh, its strobe not answered. -/
def segBusy : State :=
  { State.reset with seg := { State.reset.seg with port := { Port.reset with seq := .busy .segRefresh 0 } } }
/-- A block with a request to be sent and some answers for one unit. -/
def sending (u : UnitId) (as : List Answer) (rs : List Request) : State := { fresh u as with requests := rs }

/-- SegClearZeroFills, SegWriteBufferWritesOneEntry, MatClearZeroFills and the other premises of an idle unit. -/
theorem test_witness_idle :
    State.reset.seg.isIdle = true ∧ State.reset.mat.isIdle = true ∧ State.reset.lcd.isIdle = true := by decide
/-- SegRefreshSendsFramebuffer, SegEnableOscillatorThenDisplay, SegDisableSendsOffPair: the three clauses. -/
theorem test_witness_seg_two_strobes :
    (∃ (s : State) (rest : List Answer), s.seg.isIdle = true ∧ s.seg.port.answers = .complete :: .complete :: rest) ∧
    (∃ (s : State) (rest : List Answer), s.seg.isIdle = true ∧ s.seg.port.answers = .complete :: .fail :: rest) ∧
    (∃ (s : State) (rest : List Answer), s.seg.isIdle = true ∧ s.seg.port.answers = .fail :: rest) :=
  ⟨⟨fresh .seg [.complete, .complete], [], rfl, rfl⟩, ⟨fresh .seg [.complete, .fail], [], rfl, rfl⟩,
    ⟨fresh .seg [.fail], [], rfl, rfl⟩⟩
/-- SegBlinkRateSetsDisplayOn: 0 and 3 are in range, 4 and -1 are not. -/
theorem test_witness_blink_rate :
    (0 ≤ (0 : Word).toInt ∧ (0 : Word).toInt ≤ 3) ∧ (0 ≤ (3 : Word).toInt ∧ (3 : Word).toInt ≤ 3) ∧
    ¬ (0 ≤ (4 : Word).toInt ∧ (4 : Word).toInt ≤ 3) ∧ ¬ (0 ≤ (-1 : Word).toInt ∧ (-1 : Word).toInt ≤ 3) := by decide
/-- SegBrightnessSendsDimming, SegExecuteStrobesCommandByte, MatBrightnessSendsIntensity and the index of
SegWriteBufferWritesOneEntry: 0 and 15 are in range, 16 and -1 are not. -/
theorem test_witness_nibble :
    (0 ≤ (0 : Word).toInt ∧ (0 : Word).toInt ≤ 15) ∧ (0 ≤ (15 : Word).toInt ∧ (15 : Word).toInt ≤ 15) ∧
    ¬ (0 ≤ (16 : Word).toInt ∧ (16 : Word).toInt ≤ 15) ∧ ¬ (0 ≤ (-1 : Word).toInt ∧ (-1 : Word).toInt ≤ 15) := by
  decide
/-- The value of SegWriteBufferWritesOneEntry: 0 and 255 are in range, 256 and -1 are not. -/
theorem test_witness_byte :
    (0 ≤ (0 : Word).toInt ∧ (0 : Word).toInt ≤ 255) ∧ (0 ≤ (255 : Word).toInt ∧ (255 : Word).toInt ≤ 255) ∧
    ¬ (0 ≤ (256 : Word).toInt ∧ (256 : Word).toInt ≤ 255) ∧ ¬ (0 ≤ (-1 : Word).toInt ∧ (-1 : Word).toInt ≤ 255) := by
  decide
/-- The two answers of a one-strobe operation, and of SegEmittedStrobes. -/
theorem test_witness_seg_one_strobe :
    (∃ (s : State) (rest : List Answer), s.seg.isIdle = true ∧ s.seg.port.answers = .complete :: rest) ∧
    (∃ (s : State) (rest : List Answer), s.seg.isIdle = true ∧ s.seg.port.answers = .fail :: rest) :=
  ⟨⟨fresh .seg [.complete], [], rfl, rfl⟩, ⟨fresh .seg [.fail], [], rfl, rfl⟩⟩
/-- CommandByteJoinsNibbles: two pairs of nibbles with one byte. -/
theorem test_witness_command_byte : cmdByte 15 15 = cmdByte (-1) (-1) := by decide
/-- MatRefreshSendsEightRows: all eight good; the first and the last of the eight bad. -/
theorem test_witness_mat_refresh :
    (∃ (s : State) (rest : List Answer), s.mat.isIdle = true ∧ s.mat.port.answers = reliable 8 ++ rest) ∧
    (∃ (s : State) (rest : List Answer), s.mat.isIdle = true ∧
      s.mat.port.answers = reliable (0 : Fin 8).val ++ .fail :: rest) ∧
    (∃ (s : State) (rest : List Answer), s.mat.isIdle = true ∧
      s.mat.port.answers = reliable (7 : Fin 8).val ++ .fail :: rest) :=
  ⟨⟨fresh .mat (reliable 8), [], rfl, rfl⟩, ⟨fresh .mat [.fail], [], rfl, rfl⟩,
    ⟨fresh .mat (reliable 7 ++ [.fail]), [], rfl, rfl⟩⟩
/-- MatRefreshRowStrictBound: rows 0 and 7 are legal, 8 and -1 are not. -/
theorem test_witness_mat_row :
    (0 : Word).toInt = (0 : Fin 8).val ∧ (7 : Word).toInt = (7 : Fin 8).val ∧
    ¬ (0 ≤ (8 : Word).toInt ∧ (8 : Word).toInt < 8) ∧ ¬ (0 ≤ (-1 : Word).toInt ∧ (-1 : Word).toInt < 8) := by decide
/-- MatEmittedFrames: the lowest and the highest level of an intensity frame. -/
theorem test_witness_mat_level : (0x00 : Byte).toNat ≤ 15 ∧ (0x0F : Byte).toNat ≤ 15 := by decide
/-- The two answers of a one-frame operation, and of MatEmittedFrames. -/
theorem test_witness_mat_one_frame :
    (∃ (s : State) (rest : List Answer), s.mat.isIdle = true ∧ s.mat.port.answers = .complete :: rest) ∧
    (∃ (s : State) (rest : List Answer), s.mat.isIdle = true ∧ s.mat.port.answers = .fail :: rest) :=
  ⟨⟨fresh .mat [.complete], [], rfl, rfl⟩, ⟨fresh .mat [.fail], [], rfl, rfl⟩⟩
/-- MatSetEnabledFrames: three good answers; the first and the third bad. -/
theorem test_witness_mat_set_enabled :
    (∃ (s : State) (rest : List Answer), s.mat.isIdle = true ∧ s.mat.port.answers = reliable 3 ++ rest) ∧
    (∃ (s : State) (rest : List Answer), s.mat.isIdle = true ∧
      s.mat.port.answers = reliable (0 : Fin 3).val ++ .fail :: rest) ∧
    (∃ (s : State) (rest : List Answer), s.mat.isIdle = true ∧
      s.mat.port.answers = reliable (2 : Fin 3).val ++ .fail :: rest) :=
  ⟨⟨fresh .mat (reliable 3), [], rfl, rfl⟩, ⟨fresh .mat [.fail], [], rfl, rfl⟩,
    ⟨fresh .mat (reliable 2 ++ [.fail]), [], rfl, rfl⟩⟩
/-- MatSetPixelChangesOnePixel, MatGetPixelReadsOnePixel: (0,0) and (7,7) are in the grid, (8,0), (0,8), (-1,0) not. -/
theorem test_witness_pixel :
    ((0 ≤ (7 : Word).toInt ∧ (7 : Word).toInt < 8) ∧ (0 ≤ (0 : Word).toInt ∧ (0 : Word).toInt < 8)) ∧
    ((7 : Word).toInt = (7 : Fin 8).val ∧ (0 : Word).toInt = (0 : Fin 8).val) ∧
    ¬ ((0 ≤ (8 : Word).toInt ∧ (8 : Word).toInt < 8) ∧ (0 ≤ (0 : Word).toInt ∧ (0 : Word).toInt < 8)) ∧
    ¬ ((0 ≤ (0 : Word).toInt ∧ (0 : Word).toInt < 8) ∧ (0 ≤ (8 : Word).toInt ∧ (8 : Word).toInt < 8)) ∧
    ¬ ((0 ≤ (-1 : Word).toInt ∧ (-1 : Word).toInt < 8) ∧ (0 ≤ (0 : Word).toInt ∧ (0 : Word).toInt < 8)) := by decide
/-- PixelReadsBackAsSet: the pixel set, and its neighbour. -/
theorem test_witness_pixel_back :
    (∃ t u v, exec (.matSetPixel 7 7 true) .reset = .next t ∧ exec (.matGetPixel 7 7) t = .next u ∧
      exec (.matGetPixel 7 7) .reset = .next v ∧ u.mat.port.value = true ∧ v.mat.port.value = false) ∧
    (∃ t u v, exec (.matSetPixel 7 7 true) .reset = .next t ∧ exec (.matGetPixel 6 7) t = .next u ∧
      exec (.matGetPixel 6 7) .reset = .next v ∧ u.mat.port.value = false) :=
  ⟨⟨_, _, _, rfl, rfl, rfl, rfl, rfl⟩, ⟨_, _, _, rfl, rfl, rfl, rfl⟩⟩
/-- SegEnableOscillatorThenDisplay, SegDisableSendsOffPair: the display settings carry blink rate 0
(70_reset_and_hazards.md R190); an off setting with the blink bits set is no valid choice. -/
theorem test_display_settings_carry_rate_zero :
    ¬ ({ defaultParams with segSetDisplayOn := 1, segSetDisplayOff := 6 } : Params).Valid ∧
    ({ defaultParams with segSetDisplayOn := 1, segSetDisplayOff := 8 } : Params).Valid := by decide
/-- RowCommandDoesNotWrap: valid parameters; the base 248 is the greatest the constraint allows. -/
theorem test_witness_row_command :
    defaultParams.Valid ∧ ({ defaultParams with matCmdRowBase := 248 } : Params).Valid := by decide
/-- LcdSetPinWritesThenWaits: a latch with the lowest and one with the highest pin set; the three clauses. -/
theorem test_witness_lcd_set_pin :
    (∀ q : Fin 8, (0x01 : Byte).getLsbD q.val =
      if q.val = (0 : BitVec 3).toNat then true else State.reset.lcd.data.latch.getLsbD q.val) ∧
    (∀ q : Fin 8, (0x80 : Byte).getLsbD q.val =
      if q.val = (7 : BitVec 3).toNat then true else State.reset.lcd.data.latch.getLsbD q.val) ∧
    (fresh .lcd [.complete, .complete]).lcd.port.answers = .complete :: .complete :: [] ∧
    (fresh .lcd [.fail]).lcd.port.answers = .fail :: [] ∧
    (fresh .lcd [.complete, .fail]).lcd.port.answers = .complete :: .fail :: [] ∧
    (fresh .lcd [.fail]).lcd.isIdle = true := by decide
/-- The answers of LcdPulseIsLowHighLow, LcdWrite8FifteenWrites, LcdCommandIsWrite8InCommandMode, LcdEmittedWrites and
LcdInitRunsWholeSequence. -/
theorem test_witness_lcd_answers :
    (∃ (s : State) (rest : List Answer), s.lcd.isIdle = true ∧ s.lcd.port.answers = reliable 6 ++ rest) ∧
    (∃ (s : State) (rest : List Answer), s.lcd.isIdle = true ∧ s.lcd.port.answers = reliable 30 ++ rest) ∧
    (∃ (s : State) (rest : List Answer), s.lcd.isIdle = true ∧ s.lcd.port.answers = reliable 215 ++ rest) ∧
    (∃ (s : State) (rest : List Answer), s.lcd.isIdle = true ∧ s.lcd.port.answers = .complete :: rest) ∧
    (∃ (s : State) (rest : List Answer), s.lcd.isIdle = true ∧ s.lcd.port.answers = .fail :: rest) :=
  ⟨⟨fresh .lcd (reliable 6), [], rfl, rfl⟩, ⟨fresh .lcd (reliable 30), [], rfl, rfl⟩,
    ⟨fresh .lcd (reliable 215), [], rfl, (List.append_nil _).symm⟩, ⟨fresh .lcd [.complete], [], rfl, rfl⟩,
    ⟨fresh .lcd [.fail], [], rfl, rfl⟩⟩
/-- LcdInitStopsAtFailedDirection: the first answer bad (direction write), the second (backlight), the third (its pulse
delay), the one of the first settle delay, the first two of return home, the last of all. -/
theorem test_witness_init_stops (p : Params) (latch : Byte) :
    (initEvents p latch)[0]? = some (.busReg p.lcdRegDirection p.lcdDirAllOutput) ∧
    (∃ v, (initEvents p latch)[1]? = some (.busReg p.lcdRegLatch v)) ∧
    (initEvents p latch)[2]? = some (.delay .pulse) ∧
    (initEvents p latch)[183]? = some (.delay .settle) ∧
    (∃ v, (initEvents p latch)[184]? = some (.busReg p.lcdRegLatch v)) ∧
    (initEvents p latch)[185]? = some (.delay .pulse) ∧
    (initEvents p latch)[214]? = some (.delay .settle) := by
  refine ⟨?_, ?_, ?_, ?_, ?_, ?_, ?_⟩ <;> simp [initEvents]
  · exact ⟨_, rfl⟩
  · rfl
  · exact ⟨_, rfl⟩
  · rfl
/-- LcdInitStopsAtFailedDirection: an idle LCD and `k` good answers before the bad one, for every `k`. -/
theorem test_witness_init_answers (k : Nat) :
    ∃ (s : State) (rest : List Answer), s.lcd.isIdle = true ∧ s.lcd.port.answers = reliable k ++ .fail :: rest :=
  ⟨fresh .lcd (reliable k ++ [.fail]), [], rfl, rfl⟩
/-- LcdCommandIsWrite8InCommandMode, first clause: an LCD that has ended the command, here at its first write. -/
theorem test_witness_lcd_command :
    ∃ t, exec (.lcdCommand 0x01) (fresh .lcd [.fail]) = .next t ∧ t.lcd.isIdle = true := ⟨_, rfl, rfl⟩
/-- LcdPinOperationsComplete: an operation with pin writes and one with none, with their answers. -/
theorem test_witness_lcd_pins :
    (∃ (s : State) (ws : List (BitVec 3 × Bool)) (rest : List Answer),
      pinWritesOf Config.params .lcdPulseEnable = some ws ∧ s.lcd.isIdle = true ∧
      s.lcd.port.answers = reliable (2 * ws.length) ++ rest) ∧
    (∃ (s : State) (rest : List Answer),
      pinWritesOf Config.params (.lcdMessage []) = some [] ∧ s.lcd.isIdle = true ∧
      s.lcd.port.answers = reliable (2 * 0) ++ rest) :=
  ⟨⟨fresh .lcd (reliable 6), _, [], rfl, rfl, rfl⟩, ⟨fresh .lcd [], [], rfl, rfl, rfl⟩⟩
/-- LcdPinOperationsStopAtBadAnswer: the first write, the first delay and the last delay of a pulse. -/
theorem test_witness_lcd_pins_stop :
    (∀ k : Fin 6, k.val = 0 ∨ k.val = 1 ∨ k.val = 5 →
      ∃ (s : State) (ws : List (BitVec 3 × Bool)) (rest : List Answer),
        pinWritesOf Config.params .lcdPulseEnable = some ws ∧ s.lcd.isIdle = true ∧ k.val < 2 * ws.length ∧
        s.lcd.port.answers = reliable k.val ++ .fail :: rest) :=
  fun k _ => ⟨fresh .lcd (reliable k.val ++ [.fail]), _, [], rfl, rfl, k.isLt, rfl⟩
/-- LcdTransferRecoversByte, LcdMessageTransmitsText, LcdInitTransmitsSequence: enable is low in the latch 0x00. -/
theorem test_witness_enable_low :
    enableLow Config.params (fresh .lcd (reliable 30)) ∧ enableLow Config.params (fresh .lcd (reliable 215)) ∧
    (fresh .lcd (reliable 30)).lcd.port.answers = reliable (30 * [(0x41 : Byte)].length) ++ [] := by
  refine ⟨?_, ?_, rfl⟩ <;> simp [enableLow, fresh, State.withAnswers, State.reset, pinLevel]
/-- LcdLatchMovesOneBitAtATime: a pin write from reset. -/
theorem test_witness_one_bit :
    ∃ t es, Instr.unit (.lcdSetPin 7 true) = .lcd ∧
      exec (.lcdSetPin 7 true) (fresh .lcd (reliable 2)) = .next t ∧
      t.lcd.port.trace = (fresh .lcd (reliable 2)).lcd.port.trace ++ es := ⟨_, _, rfl, rfl, rfl⟩
/-- Some pin has no name: eight numbers, seven names. -/
theorem test_witness_unused_pin (p : Params) : ∃ q, p.unusedPin = some q := by
  by_contra h
  have hn : p.unusedPin = none := by
    cases hq : p.unusedPin with
    | none => rfl
    | some q => exact absurd ⟨q, hq⟩ h
  have hall : ∀ q : BitVec 3, q ∈ p.pins := by
    intro q
    have hq : q ∈ ([0, 1, 2, 3, 4, 5, 6, 7] : List (BitVec 3)) := by revert q; decide
    have := List.find?_eq_none.1 hn q hq
    simpa using this
  have hsub : ([0, 1, 2, 3, 4, 5, 6, 7] : List (BitVec 3)) ⊆ p.pins := fun q _ => hall q
  have hlen := (List.Nodup.subperm (by decide : ([0, 1, 2, 3, 4, 5, 6, 7] : List (BitVec 3)).Nodup) hsub).length_le
  simp [Params.pins] at hlen
/-- LcdUnusedAndBacklightKept: an operation that is no `setPin`, LCD.init and another. -/
theorem test_witness_pins_kept :
    (∃ t, exec .lcdInit (fresh .lcd (reliable 1)) = .next t ∧ ∀ pin level, Instr.lcdInit ≠ .lcdSetPin pin level) ∧
    (∃ t, exec .lcdPulseEnable (fresh .lcd (reliable 6)) = .next t ∧ Instr.lcdPulseEnable ≠ .lcdInit ∧
      ∀ pin level, Instr.lcdPulseEnable ≠ .lcdSetPin pin level) :=
  ⟨⟨_, rfl, by simp⟩, ⟨_, rfl, by simp, by simp⟩⟩
/-- InvalidArgumentChangesNothing. -/
theorem test_witness_invalid_argument :
    ∃ t, exec (.matRefreshRow 8) .reset = .next t ∧ (t.portOf .mat).seq = .idle ∧
      (t.portOf .mat).status = .invalidArgument := ⟨_, rfl, rfl, rfl⟩
/-- LifecycleAfterException: a failure inside setEnabled, an LCD failure, and another failure. -/
theorem test_witness_lifecycle :
    (∃ t, exec (.segSetEnabled true) (fresh .seg [.fail]) = .next t ∧ (t.portOf .seg).seq = .idle ∧
      (t.portOf .seg).status ≠ .ok) ∧
    (∃ t, exec (.matSetEnabled true) (fresh .mat [.complete, .complete, .fail]) = .next t ∧
      (t.portOf .mat).seq = .idle ∧ (t.portOf .mat).status ≠ .ok) ∧
    (∃ t, exec .lcdInit (fresh .lcd [.fail]) = .next t ∧ (t.portOf .lcd).seq = .idle ∧ (t.portOf .lcd).status ≠ .ok) ∧
    (∃ t, exec .segRefresh (fresh .seg [.fail]) = .next t ∧ (t.portOf .seg).seq = .idle ∧
      (t.portOf .seg).status ≠ .ok) :=
  ⟨⟨_, rfl, rfl, by decide⟩, ⟨_, rfl, rfl, by decide⟩, ⟨_, rfl, rfl, by decide⟩, ⟨_, rfl, rfl, by decide⟩⟩
/-- OneResponsePerOperation: an operation that has ended, and one that has answered 1. -/
theorem test_witness_response :
    (∃ t, exec .segClear .reset = .next t ∧ (t.portOf .seg).seq = .idle) ∧
    (∃ t, exec (.matGetPixel 7 0)
        (State.reset.matEnds { fb := #v[1, 0, 0, 0, 0, 0, 0, 0], life := .unknown } [] [] .ok false) = .next t ∧
      (t.portOf .mat).value = true) :=
  ⟨⟨_, rfl, rfl⟩, ⟨_, rfl, rfl⟩⟩
/-- UnansweredCallKeepsUnitBusy, AnswersInPiecesOrAtOnce: a refresh whose bulk write is not answered yet, and is what
SEG waits on. -/
theorem test_witness_unanswered :
    ∃ t, exec .segRefresh (State.reset.withAnswers .seg [.complete]) = .next t ∧
      (t.portOf .seg).seq = .busy .segRefresh 1 ∧
      t.outstanding Config.params .seg = some (.busBulk 0x00 (List.replicate 16 0x00) 16) ∧
      ([.complete] : List Answer) ≠ [] ∧ State.reset.requests = [] ∧
      ∀ u, u ≠ .seg → State.reset.answerReady u = false :=
  ⟨_, rfl, rfl, rfl, by decide, rfl, by intro u _; cases u <;> rfl⟩
/-- TraceBeginsReliableTrace, UnitsAreIndependent, RegistersChangedOnlyByTheirOperations: an operation of each unit. -/
theorem test_witness_next :
    (∃ t, exec (.segSetEnabled true) (fresh .seg [.complete, .fail]) = .next t) ∧
    (∃ t, exec .matRefresh (fresh .mat (reliable 8)) = .next t) ∧
    (∃ t, exec (.lcdWrite8 0x41 true) (fresh .lcd (reliable 7)) = .next t) := ⟨⟨_, rfl⟩, ⟨_, rfl⟩, ⟨_, rfl⟩⟩
/-- RegistersChangedOnlyByTheirOperations: a framebuffer and a lifecycle that do change. -/
theorem test_witness_registers :
    (∃ t, exec (.segWriteBuffer 15 255) .reset = .next t ∧ t.seg.data.fb ≠ State.reset.seg.data.fb) ∧
    (∃ t, exec (.segSetEnabled true) (fresh .seg (reliable 2)) = .next t ∧
      t.seg.data.life ≠ (fresh .seg (reliable 2)).seg.data.life) ∧
    (∃ t, exec (.matSetPixel 7 7 true) .reset = .next t ∧ t.mat.data.fb ≠ State.reset.mat.data.fb) ∧
    (∃ t, exec (.matSetEnabled false) (fresh .mat (reliable 1)) = .next t ∧
      t.mat.data.life ≠ (fresh .mat (reliable 1)).mat.data.life) :=
  ⟨⟨_, rfl, by decide⟩, ⟨_, rfl, by decide⟩, ⟨_, rfl, by decide⟩, ⟨_, rfl, by decide⟩⟩
/-- BusyUnitIsHandedNothing. -/
theorem test_witness_busy :
    ∃ s : State, s.unitIdle (Instr.unit .segClear) = false ∧ exec .segClear s = .refused .unitBusy :=
  ⟨segBusy, rfl, rfl⟩
/-- TransactionCountsOnSuccess, LeastTimesOfTransfers: a transfer that has ended OK. -/
theorem test_witness_counts :
    (∃ t es, exec (.segSetBrightness 15) (fresh .seg [.complete]) = .next t ∧ (t.portOf .seg).seq = .idle ∧
      (t.portOf .seg).status = .ok ∧ (t.portOf .seg).trace = ((fresh .seg [.complete]).portOf .seg).trace ++ es) ∧
    (∃ t es, exec (.lcdWrite8 0x41 true) (fresh .lcd (reliable 30)) = .next t ∧ t.lcd.port.seq = .idle ∧
      t.lcd.port.status = .ok ∧ t.lcd.port.trace = (fresh .lcd (reliable 30)).lcd.port.trace ++ es) :=
  ⟨⟨_, _, rfl, rfl, rfl, rfl⟩, ⟨_, _, rfl, rfl, rfl, rfl⟩⟩
/-- LeastTimesOfTransfers and RegistersChangedOnlyByTheirOperations: the initialization, which leaves LCD READY. -/
theorem test_witness_init_time :
    ∃ t es, exec .lcdInit (fresh .lcd (reliable 215)) = .next t ∧ t.lcd.port.seq = .idle ∧ t.lcd.port.status = .ok ∧
      t.lcd.port.trace = (fresh .lcd (reliable 215)).lcd.port.trace ++ es ∧ t.lcd.data.life = .ready :=
  ⟨_, _, rfl, rfl, rfl, rfl, rfl⟩
/-- DecodeInvertsEncode: a request, an emitted encoding, opcodes that do not use `text`, `flag`, `b` and `a`, and a
request read with its unused fields set. -/
theorem test_witness_decode :
    Instr.isRequest (.lcdSetPin 7 true) = true ∧ Instr.isRequest .segDisplayData = false ∧
    (0x31 : Byte) ≠ 0x32 ∧ (0x32 : Byte) ∉ ([0x12, 0x22, 0x23, 0x25, 0x31, 0x33] : List Byte) ∧
    (0x24 : Byte) ∉ ([0x15, 0x16, 0x25, 0x26] : List Byte) ∧
    (0x34 : Byte) ∉ ([0x13, 0x14, 0x15, 0x16, 0x24, 0x25, 0x26, 0x27, 0x31, 0x33, 0x35] : List Byte) ∧
    decode { opcode := 0x35, a := 0x141, b := 7, flag := true, text := [0xFF] } = .operation (.lcdCommand 0x41) := by
  decide
/-- DecodeInvertsEncode: operands that differ in ignored bits alone, and requests that use each operand. -/
theorem test_witness_ignored_bits :
    (0x141 : Word).toNat % 2 ^ 8 = (0x41 : Word).toNat % 2 ^ 8 ∧ (0xF : Word).toNat % 2 ^ 3 = (7 : Word).toNat % 2 ^ 3 ∧
    decode { mkRequest 0x31 with a := 0x141, flag := true } = .operation (.lcdWrite8 0x41 true) ∧
    decode { mkRequest 0x33 with a := 0xF, flag := true } = .operation (.lcdSetPin 7 true) ∧
    decode { mkRequest 0x15 with a := 10, b := 5 } = .operation (.segExecute 10 5) ∧
    decode { mkRequest 0x32 with text := [0x48] } = .operation (.lcdMessage [0x48]) := by decide
/-- ReservedOpcodeIsAnswered: a reserved opcode of each unit and two of none. -/
theorem test_witness_reserved :
    decode (mkRequest 0x1F) = .reserved 0x1F ∧ decode (mkRequest 0x28) = .reserved 0x28 ∧
    decode (mkRequest 0x36) = .reserved 0x36 ∧ decode (mkRequest 0x0F) = .reserved 0x0F ∧
    decode (mkRequest 0x40) = .reserved 0x40 ∧
    (sending .seg [] [mkRequest 0x1F]).requests = mkRequest 0x1F :: [] := by decide
/-- StepRunsDecodedRequest: a request for an idle unit, and one for a busy unit. -/
theorem test_witness_step :
    ((sending .seg [] [mkRequest 0x10]).requests = mkRequest 0x10 :: [] ∧
      decode (mkRequest 0x10) = .operation .segClear ∧
      (sending .seg [] [mkRequest 0x10]).unitIdle (Instr.unit .segClear) = true) ∧
    (∃ s : State, s.requests = mkRequest 0x10 :: [] ∧ s.unitIdle (Instr.unit .segClear) = false ∧
      ∃ t, step s = .next t) :=
  ⟨⟨rfl, rfl, rfl⟩,
    ⟨{ segBusy with requests := [mkRequest 0x10] }, rfl, rfl, _, rfl⟩⟩
/-- StepWaitsForAnswers: nothing has come; with no request, and with one for a busy unit. -/
theorem test_witness_waits :
    (∀ u, State.reset.answerReady u = false) ∧ State.reset.requests = [] ∧
    (∃ s : State, (∀ u, s.answerReady u = false) ∧ s.requests = mkRequest 0x10 :: [] ∧
      s.unitIdle (Instr.unit .segClear) = false) :=
  ⟨by intro u; cases u <;> rfl, rfl,
    ⟨{ segBusy with requests := [mkRequest 0x10] }, by intro u; cases u <;> rfl, rfl, rfl⟩⟩
/-- PlacedWordRunsNext. -/
theorem test_witness_placed : decodeTableWord 8 0x30 = some .lcdInit := by decide
/-- StepKeepsTracesSound, StepKeepsSequencersSound, StepKeepsLatchSound, SoundSequencersNeverFault: a step from a state
that has the three invariants, with a request to be carried out. -/
theorem test_witness_invariants :
    TracesSound Config.params (sending .lcd (reliable 2) [mkRequest 0x34]) ∧
    SequencersSound Config.params (sending .lcd (reliable 2) [mkRequest 0x34]) ∧
    LatchSound Config.params (sending .lcd (reliable 2) [mkRequest 0x34]) ∧
    ∃ t, step (sending .lcd (reliable 2) [mkRequest 0x34]) = .next t := by
  refine ⟨⟨?_, ?_, ?_⟩, ⟨.inl rfl, .inl rfl, .inl rfl⟩, .inl (.inl rfl), _, rfl⟩ <;> intro e h <;> cases h

end Sys2Proof.Tests
end

section
/-! Noninterference of the three units (00_scope.md R6): what an operation does in every state that agrees on its unit,
and what a step leaves of the other two. -/

namespace Sys2Proof.Machine

/-! ### An operation reads and writes its own unit only -/

/-- Where a MAT operation has a next state in one state, it is its program handed to MAT in every state: the one
refusal besides that of a busy unit, a pixel outside the grid, is of the operands alone. -/
theorem exec_mat_of_next {i : Instr} {pr : Program MatData} (hp : matProgram Config.params i = some pr) {s t : State}
    (h : exec i s = .next t) (s' : State) : exec i s' = startMat i pr s' := by
  obtain he | ⟨-, x, y, hout, rfl | ⟨e, rfl⟩⟩ := exec_mat hp s'
  · exact he
  all_goals
    obtain ⟨hin, -⟩ := startPixel_next.mp h
    simp [hout] at hin

/-- A SEG operation does the same to SEG in every state with the same SEG, and nothing else. -/
theorem exec_seg_congr {i : Instr} {pr : Program SegData} (hp : segProgram Config.params i = some pr) {s s' : State}
    (hidle : s.seg.isIdle = true) (hs : s'.seg = s.seg) : exec i s' = .next { s' with seg := s.seg.launch i pr } := by
  rw [exec_seg hp, startSeg_next, hs]
  exact ⟨hidle, rfl⟩

/-- An LCD operation does the same to LCD in every state with the same LCD, and nothing else. -/
theorem exec_lcd_congr {i : Instr} {pr : Program LcdData} (hp : lcdProgram Config.params i = some pr) {s s' : State}
    (hidle : s.lcd.isIdle = true) (hs : s'.lcd = s.lcd) : exec i s' = .next { s' with lcd := s.lcd.launch i pr } := by
  rw [exec_lcd hp, startLcd_next, hs]
  exact ⟨hidle, rfl⟩

/-- A MAT operation with a next state does the same to MAT in every state with the same MAT, and nothing else. -/
theorem exec_mat_congr {i : Instr} {pr : Program MatData} (hp : matProgram Config.params i = some pr) {s s' t : State}
    (h : exec i s = .next t) (hidle : s.mat.isIdle = true) (hs : s'.mat = s.mat) :
    exec i s' = .next { s' with mat := s.mat.launch i pr } := by
  rw [exec_mat_of_next hp h, startMat_next, hs]
  exact ⟨hidle, rfl⟩

/-! ### A step changes at most one unit -/

/-- Of the three units at most one differs between `s` and `t`. -/
def AtMostOneUnitChanges (s t : State) : Prop :=
  (t.mat = s.mat ∧ t.lcd = s.lcd) ∨ (t.seg = s.seg ∧ t.lcd = s.lcd) ∨ (t.seg = s.seg ∧ t.mat = s.mat)

theorem exec_changes_one_unit {i : Instr} {s t : State} (h : exec i s = .next t) : AtMostOneUnitChanges s t := by
  obtain ⟨-, -, pr, -, rfl⟩ | ⟨-, -, pr, -, rfl⟩ | ⟨-, -, pr, -, rfl⟩ := exec_next_cases h
  · exact .inl ⟨rfl, rfl⟩
  · exact .inr (.inl ⟨rfl, rfl⟩)
  · exact .inr (.inr ⟨rfl, rfl⟩)

theorem answerReserved_changes_one_unit (opcode : Byte) (s : State) :
    AtMostOneUnitChanges s (answerReserved opcode s) := by
  unfold answerReserved
  split
  · exact .inl ⟨rfl, rfl⟩
  · exact .inr (.inl ⟨rfl, rfl⟩)
  · exact .inr (.inr ⟨rfl, rfl⟩)
  · exact .inl ⟨rfl, rfl⟩

theorem goOnOrWait_changes_one_unit {s t : State} (h : goOnOrWait s = .next t) : AtMostOneUnitChanges s t := by
  obtain ⟨u, -, -, rfl⟩ | ⟨u, -, -, rfl⟩ | ⟨u, -, -, rfl⟩ | rfl := goOnOrWait_cases h
  · exact .inl ⟨rfl, rfl⟩
  · exact .inr (.inl ⟨rfl, rfl⟩)
  · exact .inr (.inr ⟨rfl, rfl⟩)
  · exact .inl ⟨rfl, rfl⟩

theorem step_changes_one_unit {s t : State} (h : step s = .next t) : AtMostOneUnitChanges s t := by
  obtain ⟨r, rest, i, -, -, -, hx⟩ | ⟨r, rest, opcode, -, -, -, rfl⟩ | hw := step_cases h
  · exact exec_changes_one_unit (s := { s with requests := rest }) hx
  · exact answerReserved_changes_one_unit opcode { s with requests := rest }
  · exact goOnOrWait_changes_one_unit hw

/-- Settles O44: an operation is its program launched in its own unit, which reads and writes that unit alone
(`exec_next_cases` and the three congruences); a step is such an operation, a response or one unit going on. -/
theorem unitsAreIndependent : Obligations.UnitsAreIndependent := by
  unfold Obligations.UnitsAreIndependent
  refine ⟨fun i s t h => ?_, fun s t h => step_changes_one_unit h⟩
  obtain ⟨hu, hidle, pr, hp, rfl⟩ | ⟨hu, hidle, pr, hp, rfl⟩ | ⟨hu, hidle, pr, hp, rfl⟩ := exec_next_cases h
  · simpa [hu] using fun s' hs => exec_seg_congr hp hidle hs
  · simpa [hu] using fun s' hs => exec_mat_congr hp h hidle hs
  · simpa [hu] using fun s' hs => exec_lcd_congr hp hidle hs

end Sys2Proof.Machine
end

section
/-! The LCD latch and the device's latch (10_state.md R13): every LCD operation writes the latch through right after
each change of it, so a run of its statements ends with the two in agreement, or waits at the write that restores it. -/

namespace Sys2Proof.Machine

/-! ### Bodies that write the latch through -/

/-- Every change of the latch is followed at once by the latch write, and no other call writes to the latch register. -/
inductive WritesLatchThrough (p : Params) : List (Stmt LcdData) → Prop where
  | nil : WritesLatchThrough p []
  | change (f : LcdData → LcdData) {rest : List (Stmt LcdData)} :
      WritesLatchThrough p (latchWrite p :: rest) → WritesLatchThrough p (.assign f :: latchWrite p :: rest)
  | keep {f : LcdData → LcdData} {rest : List (Stmt LcdData)} (hf : ∀ d, LatchAgrees d → LatchAgrees (f d)) :
      WritesLatchThrough p rest → WritesLatchThrough p (.assign f :: rest)
  | write {rest : List (Stmt LcdData)} : WritesLatchThrough p rest → WritesLatchThrough p (latchWrite p :: rest)
  | other {ev : LcdData → Event} {rest : List (Stmt LcdData)} (hev : ∀ d v, ev d ≠ .busReg p.lcdRegLatch v) :
      WritesLatchThrough p rest → WritesLatchThrough p (plainCall ev :: rest)

variable {p : Params} {body rest : List (Stmt LcdData)}

theorem WritesLatchThrough.tail {q : Stmt LcdData} (h : WritesLatchThrough p (q :: rest)) :
    WritesLatchThrough p rest := by
  cases h with
  | change f h => exact h
  | keep hf h => exact h
  | write h => exact h
  | other hev h => exact h

/-- From every statement of such a body on, the rest is such a body too. -/
theorem WritesLatchThrough.drop (h : WritesLatchThrough p body) (k : Nat) : WritesLatchThrough p (body.drop k) := by
  induction k generalizing body with
  | zero => exact h
  | succ k ih =>
    cases body with
    | nil => exact h
    | cons q rest => exact ih h.tail

theorem WritesLatchThrough.delay (kind : DelayKind) (h : WritesLatchThrough p rest) :
    WritesLatchThrough p (delayCall kind :: rest) :=
  .other (by simp) h

theorem WritesLatchThrough.pins (ws : List (BitVec 3 × Bool)) (h : WritesLatchThrough p rest) :
    WritesLatchThrough p (pinStmts p ws ++ rest) := by
  induction ws with
  | nil => exact h
  | cons w ws ih => exact .change _ (.write (.delay .pulse ih))

/-- The direction write goes to another register than the latch (00_scope.md section 4). -/
theorem WritesLatchThrough.direction (hp : p.Valid) (h : WritesLatchThrough p rest) :
    WritesLatchThrough p (plainCall (fun _ => .busReg p.lcdRegDirection p.lcdDirAllOutput) :: rest) :=
  have hreg : p.lcdRegDirection ≠ p.lcdRegLatch := hp.2.2.1
  .other (fun _ _ he => hreg (Event.busReg.inj he).1) h

/-- The operations of LCD that are no list of pin writes. -/
theorem lcd_without_pinWrites {i : Instr} {pr : Program LcdData} (h : lcdProgram Config.params i = some pr)
    (hw : pinWritesOf Config.params i = none) : i = .lcdInit ∨ i = .lcdLatch ∨ i = .lcdDirection := by
  cases i <;> simp [lcdProgram, pinWritesOf] at h hw ⊢

/-- Every LCD operation writes the latch through, and its exceptions touch the lifecycle alone. -/
theorem lcdProgram_writesLatchThrough {i : Instr} {pr : Program LcdData} (h : lcdProgram Config.params i = some pr) :
    WritesLatchThrough Config.params pr.body ∧ pr = lcdProgramOf pr.body := by
  cases hw : pinWritesOf Config.params i with
  | some ws =>
    rw [lcdProgram_pins hw] at h
    cases h
    exact ⟨by simpa [lcdProgramOf] using WritesLatchThrough.pins (rest := []) ws .nil, rfl⟩
  | none =>
    obtain rfl | rfl | rfl := lcd_without_pinWrites h hw
    · cases h
      refine ⟨?_, rfl⟩
      rw [lcdProgramOf, lcdInitBody_eq]
      exact .direction Config.params_valid (.pins _ (.delay _ (.pins _ (.delay _ (.keep (fun _ hd => hd) .nil)))))
    · cases h
      exact ⟨.write .nil, rfl⟩
    · cases h
      exact ⟨.direction Config.params_valid .nil, rfl⟩

/-! ### What a run of such a body leaves -/

/-- The next statement is the call that puts the latch of `d` out. -/
def RestoreNext (p : Params) (d : LcdData) (body : List (Stmt LcdData)) : Prop :=
  ∃ ev an, body.head? = some (.call ev an) ∧ ev d = .busReg p.lcdRegLatch d.latch

/-- A run of `body`, whose first statement has index `k`, left latch and device in agreement, or waits at a latch
write. -/
def Progress.KeepsLatch (p : Params) (body : List (Stmt LcdData)) (k : Nat) (g : Progress LcdData) : Prop :=
  LatchAgrees g.data ∨ ∃ n, g.stop = .waiting (k + n) ∧ body[n]? = some (latchWrite p)

theorem Progress.KeepsLatch.cons {q : Stmt LcdData} {k : Nat} {g : Progress LcdData}
    (h : g.KeepsLatch p rest (k + 1)) : g.KeepsLatch p (q :: rest) k := by
  obtain h | ⟨n, hs, hn⟩ := h
  · exact .inl h
  · exact .inr ⟨n + 1, by rw [hs, Nat.add_right_comm, Nat.add_assoc], by simpa using hn⟩

/-- Started in agreement, or at the write that restores it, a body that writes the latch through stops in agreement or
at a latch write. -/
theorem run_keepsLatch (hb : WritesLatchThrough p body) (k : Nat) (d : LcdData) (as : List Answer)
    (hd : LatchAgrees d ∨ RestoreNext p d body) : (run body k d as).KeepsLatch p body k := by
  induction hb generalizing k d as with
  | nil =>
    obtain hd | ⟨ev, an, hh, -⟩ := hd
    · exact .inl hd
    · cases hh
  | change f hb ih => exact (ih (k + 1) (f d) as (.inr ⟨_, _, rfl, rfl⟩)).cons
  | keep hf hb ih =>
    obtain hd | ⟨ev, an, hh, -⟩ := hd
    · exact (ih (k + 1) _ as (.inl (hf d hd))).cons
    · cases hh
  | write hb ih =>
    match as with
    | [] => exact .inr ⟨0, rfl, rfl⟩
    | .complete :: as => exact (ih (k + 1) { d with dev := some d.latch } as (.inl (.inr rfl))).cons
    | .fail :: as => exact .inl (.inl rfl)
  | other hev hb ih =>
    have hd : LatchAgrees d := by
      obtain hd | ⟨ev, an, hh, he⟩ := hd
      · exact hd
      · cases hh
        exact absurd he (hev d _)
    match as with
    | [] => exact .inl hd
    | .complete :: as => exact (ih (k + 1) d as (.inl hd)).cons
    | .fail :: as => exact .inl hd

/-- Going on from a call is running from it, but that its event stands in the trace already. -/
theorem goOn_data_stop {D : Type} {body : List (Stmt D)} {k : Nat} {d : D} {as : List Answer} {g : Progress D}
    (h : goOn body k d as = some g) : g.data = (run body k d as).data ∧ g.stop = (run body k d as).stop := by
  obtain ⟨ev, an, rest, rfl, ⟨rfl, rfl⟩ | ⟨as', rfl, rfl⟩ | ⟨as', rfl, rfl⟩⟩ := goOn_cases h
  · exact ⟨rfl, rfl⟩
  · exact ⟨rfl, rfl⟩
  · exact ⟨rfl, rfl⟩

theorem goOn_keepsLatch {k : Nat} {d : LcdData} {as : List Answer} {g : Progress LcdData}
    (hb : WritesLatchThrough p body) (hd : LatchAgrees d ∨ RestoreNext p d (body.drop k))
    (h : goOn (body.drop k) k d as = some g) : g.KeepsLatch p body 0 := by
  obtain ⟨hdata, hstop⟩ := goOn_data_stop h
  obtain hr | ⟨n, hs, hn⟩ := run_keepsLatch (hb.drop k) k d as hd
  · exact .inl (hdata ▸ hr)
  · exact .inr ⟨k + n, by rw [hstop, hs, Nat.zero_add], by rwa [List.getElem?_drop] at hn⟩

/-! ### The invariant of the LCD unit -/

/-- `LatchSound`, which speaks of LCD alone, as a property of that unit. -/
def LcdLatchSound (u : Driver LcdData) : Prop :=
  LatchAgrees u.data ∨
    u.outstanding (lcdProgram Config.params) = some (.busReg Config.params.lcdRegLatch u.data.latch)

theorem latchSound_iff {s : State} : LatchSound Config.params s ↔ LcdLatchSound s.lcd := .rfl

variable {u v : Driver LcdData} {op : Instr} {pr : Program LcdData}

theorem LcdLatchSound.agrees_of_idle (h : LcdLatchSound u) (hi : u.isIdle = true) : LatchAgrees u.data := by
  obtain h | h := h
  · exact h
  · simp [Driver.outstanding, (isIdle_iff u).mp hi] at h

/-- In the middle of an operation the invariant says: agreement, or the statement to go on from restores it. -/
theorem LcdLatchSound.restoreNext (h : LcdLatchSound u) {k : Nat} (hs : u.port.seq = .busy op k)
    (hp : lcdProgram Config.params op = some pr) :
    LatchAgrees u.data ∨ RestoreNext Config.params u.data (pr.body.drop k) := by
  refine h.imp_right fun h => ?_
  simp only [Driver.outstanding, hs, hp] at h
  split at h
  · next ev an hk => exact ⟨ev, an, by rw [List.head?_drop, hk], Option.some.inj h⟩
  all_goals cases h

/-- An operation whose run keeps the latch leaves the unit with the invariant. -/
theorem settle_latchSound (hp : lcdProgram Config.params op = some pr) {g : Progress LcdData}
    (hg : g.KeepsLatch Config.params pr.body 0) : LcdLatchSound (u.settle op pr g) := by
  obtain hd | ⟨n, hs, hn⟩ := hg
  · have hx := (lcdProgram_writesLatchThrough hp).2
    exact .inl (settle_data u op pr g hd (fun d h => by rw [hx]; exact h))
  · rw [Nat.zero_add] at hs
    exact .inr (by simp [Driver.settle, hs, Driver.suspend, Driver.advance, Driver.outstanding, hp, hn, latchWrite])

theorem launch_latchSound (h : LcdLatchSound u) (hi : u.isIdle = true)
    (hp : lcdProgram Config.params op = some pr) : LcdLatchSound (u.launch op pr) :=
  settle_latchSound hp
    (run_keepsLatch (lcdProgram_writesLatchThrough hp).1 0 _ _ (.inl (h.agrees_of_idle hi)))

theorem goOnWith_latchSound (h : LcdLatchSound u) (hv : u.goOnWith (lcdProgram Config.params) = some v) :
    LcdLatchSound v := by
  obtain ⟨op, k, pr, g, hs, hp, hg, rfl⟩ := goOnWith_cases hv
  exact settle_latchSound hp (goOn_keepsLatch (lcdProgram_writesLatchThrough hp).1 (h.restoreNext hs hp) hg)

/-! ### The step -/

theorem exec_latchSound {i : Instr} {s t : State} (h : LcdLatchSound s.lcd) (hx : exec i s = .next t) :
    LcdLatchSound t.lcd := by
  obtain ⟨-, -, pr, -, rfl⟩ | ⟨-, -, pr, -, rfl⟩ | ⟨-, hi, pr, hp, rfl⟩ := exec_next_cases hx
  · exact h
  · exact h
  · exact launch_latchSound h hi hp

theorem answerReserved_latchSound {opcode : Byte} {s : State} (h : LcdLatchSound s.lcd)
    (hr : reservedReady opcode s = true) : LcdLatchSound (answerReserved opcode s).lcd := by
  unfold answerReserved
  split
  · exact h
  · exact h
  · next hu =>
    have hi : s.lcd.isIdle = true := by simpa [reservedReady, hu] using hr
    exact .inl (h.agrees_of_idle hi)
  · exact h

theorem goOnOrWait_latchSound {s t : State} (h : LcdLatchSound s.lcd) (hw : goOnOrWait s = .next t) :
    LcdLatchSound t.lcd := by
  obtain ⟨u, -, -, rfl⟩ | ⟨u, -, -, rfl⟩ | ⟨u, -, hu, rfl⟩ | rfl := goOnOrWait_cases hw
  · exact h
  · exact h
  · exact goOnWith_latchSound h hu
  · exact h

/-- An idle LCD whose latch and device hold 0, asked to set pin 0 on a bus that has not answered yet. -/
def pinWriteUnanswered : State :=
  { State.reset with
    lcd := { data := { latch := 0, life := .unknown, dev := some 0 }, port := Port.reset }
    requests := [mkRequest 0x33 (a := 0) (flag := true)] }

/-- Agreement alone is no invariant: between a change of the latch and the answer to its write the two differ, which is
what the outstanding write in `LatchSound` is for. -/
theorem step_loses_agreement : LatchAgrees pinWriteUnanswered.lcd.data ∧
    ∃ t, step pinWriteUnanswered = .next t ∧ ¬ LatchAgrees t.lcd.data :=
  ⟨.inr rfl, _, rfl, by unfold LatchAgrees; decide⟩

/-- Settles O60: each kind of step keeps LCD's part of the state sound, since every LCD operation writes the latch
through (`lcdProgram_writesLatchThrough`, `run_keepsLatch`). -/
theorem stepKeepsLatchSound : Obligations.StepKeepsLatchSound := by
  unfold Obligations.StepKeepsLatchSound
  intro s t h hstep
  rw [latchSound_iff] at h ⊢
  obtain ⟨r, rest, i, -, -, -, hx⟩ | ⟨r, rest, opcode, -, -, hr, rfl⟩ | hw := step_cases hstep
  · exact exec_latchSound (s := { s with requests := rest }) h hx
  · exact answerReserved_latchSound (s := { s with requests := rest }) h hr
  · exact goOnOrWait_latchSound h hw

end Sys2Proof.Machine
end

section
/-! The SEG operations that leave the lifecycle alone: how an idle SEG ends an operation whose run returns or raises an
exception, what the runs of one strobe and of a refresh are, and the statements on clear, refresh and brightness
(40_segment.md R70, R71, R75). -/

namespace Sys2Proof.Machine

/-! ### An operation of idle SEG that ends -/

section Ends
variable {i : Instr} {pr : Program SegData} {s : State} {as : List Answer} {d : SegData} {es : List Event}
  {rest : List Answer}

/-- An operation whose run returns ends SEG with `OK` and the value returned. -/
theorem exec_seg_of_returned {v : Bool} (hp : segProgram Config.params i = some pr) (hi : s.seg.isIdle = true)
    (ha : s.seg.port.answers = as)
    (hr : run pr.body 0 s.seg.data as = { data := d, events := es, answers := rest, stop := .returned v }) :
    exec i s = .next (s.segEnds d es rest .ok v) := by
  rw [exec_seg_idle hp hi ha, hr, settle_returned]
  rfl

/-- An operation whose run raises an exception ends SEG with its status, and the registers as the exception leaves
them. -/
theorem exec_seg_of_raised {st : Status} {d' : SegData} (hp : segProgram Config.params i = some pr)
    (hi : s.seg.isIdle = true) (ha : s.seg.port.answers = as)
    (hr : run pr.body 0 s.seg.data as = { data := d, events := es, answers := rest, stop := .raised st })
    (hd : afterException pr.onException st d = d') : exec i s = .next (s.segEnds d' es rest st false) := by
  rw [exec_seg_idle hp hi ha, hr, settle_raised, hd]
  rfl

end Ends

/-- Outside `setEnabled` no exception changes a register of SEG (60_exceptions.md R148). -/
@[simp] theorem afterException_segProgramOf (body : List (Stmt SegData)) (st : Status) (d : SegData) :
    afterException (segProgramOf body).onException st d = d := by
  cases st <;> rfl

/-! ### Runs of one strobe and of a refresh -/

section Runs
variable (k : Nat) (d : SegData) (rest : List Answer)

theorem run_segCmdbyte_complete (c v : Nibble) :
    run (segCmdbyteBody c v) k d (.complete :: rest) =
      { data := d, events := [.busStrobe (cmdByte c v)], answers := rest, stop := .returned false } := rfl

theorem run_segCmdbyte_fail (c v : Nibble) :
    run (segCmdbyteBody c v) k d (.fail :: rest) =
      { data := d, events := [.busStrobe (cmdByte c v)], answers := rest, stop := .raised .transportFailure } := rfl

/-- The display-data strobe is the byte 0x00 (30_encoding.md R56 a). -/
theorem cmdByte_displayData : cmdByte segCmdDisplayData segSetDisplayData = 0x00 := by decide

/-- A refresh whose strobe succeeds goes on with the bulk write. -/
theorem run_segRefresh_complete (as : List Answer) :
    run segRefreshBody k d (.complete :: as) = (run [segBulk] (k + 1) d as).emit (.busStrobe 0x00) := by
  rw [← cmdByte_displayData]
  rfl

/-- A refresh whose strobe fails makes no bulk write. -/
theorem run_segRefresh_fail :
    run segRefreshBody k d (.fail :: rest) =
      { data := d, events := [.busStrobe 0x00], answers := rest, stop := .raised .transportFailure } := by
  rw [← cmdByte_displayData]
  rfl

theorem run_segBulk_complete :
    run [segBulk] k d (.complete :: rest) =
      { data := d, events := [.busBulk 0x00 d.fb.toList 16], answers := rest, stop := .returned false } := rfl

theorem run_segBulk_fail :
    run [segBulk] k d (.fail :: rest) =
      { data := d, events := [.busBulk 0x00 d.fb.toList 16], answers := rest, stop := .raised .transportFailure } :=
  rfl

/-- A legal brightness runs as the dimming-set strobe of that level. -/
theorem run_segSetBrightness_legal {p : Params} {level : Word} (hl : 0 ≤ level.toInt ∧ level.toInt ≤ 15)
    (as : List Answer) :
    run (segSetBrightnessBody p level) k d as =
      run (segCmdbyteBody p.segCmdDimmingSet (BitVec.ofNat 4 level.toNat)) (k + 1) d as := by
  rw [segSetBrightnessBody, inRange_true.mpr hl, run_check_true, BitVec.ofNat_toNat]
  rfl

/-- Any other brightness is rejected before the strobe. -/
theorem run_segSetBrightness_illegal {p : Params} {level : Word} (hl : ¬ (0 ≤ level.toInt ∧ level.toInt ≤ 15))
    (as : List Answer) :
    run (segSetBrightnessBody p level) k d as =
      { data := d, events := [], answers := as, stop := .raised .invalidArgument } := by
  rw [segSetBrightnessBody, inRange_false.mpr hl, run_check_false]

end Runs

/-! ### The statements -/

/-- Settles O1: the one statement of `SEG.clear` is the assignment of the zeros, and its run returns. -/
theorem segClearZeroFills : Obligations.SegClearZeroFills := by
  unfold Obligations.SegClearZeroFills
  intro s hidle
  exact exec_seg_of_returned rfl hidle rfl (run_assign 0 _ _ [] _)

/-- Settles O2: the runs of the strobe and of the bulk write under each of the three answer paths. -/
theorem segRefreshSendsFramebuffer : Obligations.SegRefreshSendsFramebuffer := by
  unfold Obligations.SegRefreshSendsFramebuffer
  intro s rest hidle
  refine ⟨fun ha => ?_, fun ha => ?_, fun ha => ?_⟩
  · refine exec_seg_of_returned rfl hidle ha ?_
    rw [segProgramOf, run_segRefresh_complete, run_segBulk_complete]
    rfl
  · refine exec_seg_of_raised rfl hidle ha ?_ (afterException_segProgramOf _ _ s.seg.data)
    rw [segProgramOf, run_segRefresh_complete, run_segBulk_fail]
    rfl
  · exact exec_seg_of_raised rfl hidle ha (run_segRefresh_fail _ _ _) (afterException_segProgramOf _ _ _)

/-- Settles O6: a level in range passes the check and one strobe is run; any other is rejected by the check. -/
theorem segBrightnessSendsDimming : Obligations.SegBrightnessSendsDimming := by
  unfold Obligations.SegBrightnessSendsDimming
  intro s level rest hidle sent
  refine ⟨fun hl => ⟨fun ha => ?_, fun ha => ?_⟩, fun hl => ?_⟩
  · exact exec_seg_of_returned rfl hidle ha
      ((run_segSetBrightness_legal _ _ hl _).trans (run_segCmdbyte_complete _ _ _ _ _))
  · exact exec_seg_of_raised rfl hidle ha
      ((run_segSetBrightness_legal _ _ hl _).trans (run_segCmdbyte_fail _ _ _ _ _)) (afterException_segProgramOf _ _ _)
  · exact exec_seg_of_raised rfl hidle rfl (run_segSetBrightness_illegal _ _ hl _) (afterException_segProgramOf _ _ _)

end Sys2Proof.Machine
end

section
/-! The MAT operations that leave the lifecycle alone: how an idle MAT ends an operation whose run returns or raises an
exception, operations that send one frame, and the two pixel operations on the same framebuffer (41_matrix.md R90, R94
to R97). -/

namespace Sys2Proof.Machine

/-! ### An operation of idle MAT that ends -/

section Ends
variable {i : Instr} {pr : Program MatData} {s : State} {as : List Answer} {d : MatData} {es : List Event}
  {rest : List Answer}

/-- An operation whose run returns ends MAT with `OK` and the value returned. -/
theorem exec_mat_of_returned {v : Bool} (he : exec i s = startMat i pr s) (hi : s.mat.isIdle = true)
    (ha : s.mat.port.answers = as)
    (hr : run pr.body 0 s.mat.data as = { data := d, events := es, answers := rest, stop := .returned v }) :
    exec i s = .next (s.matEnds d es rest .ok v) := by
  rw [exec_mat_idle he hi ha, hr, settle_returned]
  rfl

/-- An operation whose run raises an exception ends MAT with its status, and the registers as the exception leaves
them. -/
theorem exec_mat_of_raised {st : Status} {d' : MatData} (he : exec i s = startMat i pr s) (hi : s.mat.isIdle = true)
    (ha : s.mat.port.answers = as)
    (hr : run pr.body 0 s.mat.data as = { data := d, events := es, answers := rest, stop := .raised st })
    (hd : afterException pr.onException st d = d') : exec i s = .next (s.matEnds d' es rest st false) := by
  rw [exec_mat_idle he hi ha, hr, settle_raised, hd]
  rfl

end Ends

/-- Outside `setEnabled` no exception changes a register of MAT (60_exceptions.md R148). -/
@[simp] theorem afterException_matProgramOf (body : List (Stmt MatData)) (st : Status) (d : MatData) :
    afterException (matProgramOf body).onException st d = d := by
  cases st <;> rfl

/-! ### Operations that send one frame -/

section Runs
variable (k : Nat) (d : MatData)

theorem run_frame_complete (cmd data : Byte) (rest : List Answer) :
    run [frame cmd data] k d (.complete :: rest) =
      { data := d, events := [.busFrame cmd data], answers := rest, stop := .returned false } := rfl

theorem run_frame_fail (cmd data : Byte) (rest : List Answer) :
    run [frame cmd data] k d (.fail :: rest) =
      { data := d, events := [.busFrame cmd data], answers := rest, stop := .raised .transportFailure } := rfl

/-- A legal brightness runs as the intensity frame of that level. -/
theorem run_matSetBrightness_legal {p : Params} {level : Word} (hl : 0 ≤ level.toInt ∧ level.toInt ≤ 15)
    (as : List Answer) :
    run (matSetBrightnessBody p level) k d as =
      run [frame p.matCmdIntensity (BitVec.ofNat 8 level.toNat)] (k + 1) d as := by
  rw [matSetBrightnessBody, inRange_true.mpr hl, run_check_true, BitVec.ofNat_toNat]
  rfl

/-- Any other brightness is rejected before the frame. -/
theorem run_matSetBrightness_illegal {p : Params} {level : Word} (hl : ¬ (0 ≤ level.toInt ∧ level.toInt ≤ 15))
    (as : List Answer) :
    run (matSetBrightnessBody p level) k d as =
      { data := d, events := [], answers := as, stop := .raised .invalidArgument } := by
  rw [matSetBrightnessBody, inRange_false.mpr hl, run_check_false]

end Runs

/-- An operation that runs as one frame ends with that frame sent, and `OK` or the transport failure by its answer. -/
theorem exec_mat_one_frame {i : Instr} {body : List (Stmt MatData)} {s : State} {k : Nat} {cmd data : Byte}
    (he : exec i s = startMat i (matProgramOf body) s) (hi : s.mat.isIdle = true)
    (hb : ∀ as, run body 0 s.mat.data as = run [frame cmd data] k s.mat.data as) (rest : List Answer) :
    (s.mat.port.answers = .complete :: rest →
      exec i s = .next (s.matEnds s.mat.data [.busFrame cmd data] rest .ok false)) ∧
    (s.mat.port.answers = .fail :: rest →
      exec i s = .next (s.matEnds s.mat.data [.busFrame cmd data] rest .transportFailure false)) :=
  ⟨fun ha => exec_mat_of_returned he hi ha ((hb _).trans (run_frame_complete ..)),
    fun ha => exec_mat_of_raised he hi ha ((hb _).trans (run_frame_fail ..)) (afterException_matProgramOf ..)⟩

/-! ### Pixels of the framebuffer -/

/-- A row read after a row is written: the byte written if it is that row, else the row as it was. -/
theorem readRow_writeRow (fb : Vector Byte 8) (y y' : BitVec 3) (v : Byte) :
    readRow (writeRow fb y v) y' = if y' = y then v else readRow fb y' := by
  simp [readRow, writeRow, Vector.getElem_set, BitVec.toNat_inj, eq_comm]

/-- A pixel read after a pixel is written: the level written if it is that pixel, else the pixel as it was. -/
theorem readPixel_writePixel (fb : Vector Byte 8) (x y x' y' : BitVec 3) (enabled : Bool) :
    readPixel (writePixel fb x y enabled) x' y' = if x' = x ∧ y' = y then enabled else readPixel fb x' y' := by
  rw [readPixel_bit, readPixel_bit, writePixel, readRow_writeRow]
  by_cases hy : y' = y
  · subst hy
    simpa [BitVec.toNat_inj] using withMask_pixMask (readRow fb y') x enabled ⟨x'.toNat, x'.isLt⟩
  · simp [hy]

/-- Coordinates in the grid are at most 7. -/
theorem toNat_of_pixelInGrid {x y : Word} (h : pixelInGrid x y = true) : x.toNat < 8 ∧ y.toNat < 8 := by
  obtain ⟨⟨hx0, hx⟩, ⟨hy0, hy⟩⟩ := pixelInGrid_true.mp h
  have hx' : x.toNat ≤ 7 := (toInt_within (by decide)).mp ⟨hx0, Int.le_of_lt_add_one hx⟩
  have hy' : y.toNat ≤ 7 := (toInt_within (by decide)).mp ⟨hy0, Int.le_of_lt_add_one hy⟩
  omega

/-- Legal coordinates with the same three bits are the same. -/
theorem rowField_inj {v w : Word} (hv : v.toNat < 8) (hw : w.toNat < 8) : rowField v = rowField w ↔ v = w := by
  rw [← BitVec.toNat_inj, rowField_toNat hv, rowField_toNat hw, BitVec.toNat_inj]

/-- A `MAT.setPixel` that is carried out has its pixel in the grid and ends with it written. -/
theorem exec_matSetPixel_next {x y : Word} {enabled : Bool} {s t : State}
    (h : exec (.matSetPixel x y enabled) s = .next t) :
    pixelInGrid x y = true ∧ t = s.matEnds
      { s.mat.data with fb := writePixel s.mat.data.fb (rowField x) (rowField y) enabled } [] s.mat.port.answers
      .ok false := by
  obtain ⟨hin, -, rfl⟩ := startPixel_next.mp h
  exact ⟨hin, rfl⟩

/-- A `MAT.getPixel` that is carried out has its pixel in the grid and ends with its level as the value. -/
theorem exec_matGetPixel_next {x y : Word} {s t : State} (h : exec (.matGetPixel x y) s = .next t) :
    pixelInGrid x y = true ∧ t = s.matEnds s.mat.data [] s.mat.port.answers .ok
      (readPixel s.mat.data.fb (rowField x) (rowField y)) := by
  obtain ⟨hin, -, rfl⟩ := startPixel_next.mp h
  exact ⟨hin, rfl⟩

/-! ### The statements -/

/-- Settles O19: the two values are the pixel read after and before the write (`readPixel_writePixel`), and
coordinates in the grid are equal when their three bits are. -/
theorem pixelReadsBackAsSet : Obligations.PixelReadsBackAsSet := by
  unfold Obligations.PixelReadsBackAsSet
  intro s t x y x' y' enabled u v hset hafter hbefore
  obtain ⟨hin, rfl⟩ := exec_matSetPixel_next hset
  obtain ⟨hin', rfl⟩ := exec_matGetPixel_next hafter
  obtain ⟨-, rfl⟩ := exec_matGetPixel_next hbefore
  obtain ⟨hx, hy⟩ := toNat_of_pixelInGrid hin
  obtain ⟨hx', hy'⟩ := toNat_of_pixelInGrid hin'
  simp [readPixel_writePixel, rowField_inj hx' hx, rowField_inj hy' hy]

/-- Settles O11: the one statement of `MAT.clear` is the assignment of the zeros, and its run returns. -/
theorem matClearZeroFills : Obligations.MatClearZeroFills := by
  unfold Obligations.MatClearZeroFills
  intro s hidle
  exact exec_mat_of_returned rfl hidle rfl (run_assign 0 _ _ [] _)

/-- Settles O15: with either operand the operation is one frame, the display test turned on or off. -/
theorem matTestModeSendsOneFrame : Obligations.MatTestModeSendsOneFrame := by
  unfold Obligations.MatTestModeSendsOneFrame
  intro s enabled rest hidle
  cases enabled <;> exact exec_mat_one_frame (k := 0) rfl hidle (fun _ => rfl) rest

/-- Settles O16: a level in range passes the check and one frame is run; any other is rejected by the check. -/
theorem matBrightnessSendsIntensity : Obligations.MatBrightnessSendsIntensity := by
  unfold Obligations.MatBrightnessSendsIntensity
  intro s level rest hidle
  refine ⟨fun hl => ?_, fun hl => ?_⟩
  · exact exec_mat_one_frame rfl hidle (run_matSetBrightness_legal _ _ hl) rest
  · exact exec_mat_of_raised rfl hidle rfl (run_matSetBrightness_illegal _ _ hl _) (afterException_matProgramOf ..)

end Sys2Proof.Machine
end

section
/-! Invalid arguments (60_exceptions.md R141, R146): every operation checks its operands before its first assignment and
its first call, and no later statement raises `InvalidArgument`; so the run that raises it has done nothing else. -/

namespace Sys2Proof.Machine

variable {D : Type} {body rest : List (Stmt D)}

/-! ### Bodies that check their operands first -/

/-- A statement that checks an operand. -/
def Stmt.isCheck (q : Stmt D) : Bool :=
  match q with
  | .assign _ => false
  | .check _ => true
  | .ret _ => false
  | .call _ _ => false

/-- No statement checks an operand. -/
def unchecked (body : List (Stmt D)) : Bool := body.all (fun q => !q.isCheck)

theorem unchecked_cons {q : Stmt D} : unchecked (q :: rest) = true ↔ q.isCheck = false ∧ unchecked rest = true := by
  simp [unchecked]

/-- The checks of a body, if it has any, come before all its other statements. -/
inductive ChecksFirst : List (Stmt D) → Prop where
  | check (ok : Bool) {rest : List (Stmt D)} : ChecksFirst rest → ChecksFirst (.check ok :: rest)
  | unchecked {body : List (Stmt D)} : unchecked body = true → ChecksFirst body

/-- The checks of the SEG operations with a checked operand (40_segment.md R74 to R77) come first. -/
theorem segProgram_checksFirst {p : Params} {i : Instr} {pr : Program SegData} (h : segProgram p i = some pr) :
    ChecksFirst pr.body := by
  cases i with
  | segSetBlinkRate v => cases h; exact .check _ (.unchecked rfl)
  | segSetBrightness v => cases h; exact .check _ (.unchecked rfl)
  | segExecute c v => cases h; exact .check _ (.check _ (.unchecked rfl))
  | segWriteBuffer k v => cases h; exact .check _ (.check _ (.unchecked rfl))
  | _ => cases h <;> exact .unchecked rfl

/-- The checks of the MAT operations with a checked operand (41_matrix.md R92, R95) come first. -/
theorem matProgram_checksFirst {p : Params} {i : Instr} {pr : Program MatData} (h : matProgram p i = some pr) :
    ChecksFirst pr.body := by
  cases i with
  | matSetBrightness v => cases h; exact .check _ (.unchecked rfl)
  | matRefreshRow v => cases h; exact .check _ (.unchecked rfl)
  | matSetEnabled e => cases h; cases e <;> exact .unchecked rfl
  | _ => cases h <;> exact .unchecked rfl

/-- Among the statements that write the latch through there is no check. -/
theorem WritesLatchThrough.unchecked {p : Params} {body : List (Stmt LcdData)} (h : WritesLatchThrough p body) :
    unchecked body = true := by
  induction h with
  | nil => rfl
  | change f _ ih => exact unchecked_cons.mpr ⟨rfl, ih⟩
  | keep _ _ ih => exact unchecked_cons.mpr ⟨rfl, ih⟩
  | write _ ih => exact unchecked_cons.mpr ⟨rfl, ih⟩
  | other _ _ ih => exact unchecked_cons.mpr ⟨rfl, ih⟩

/-- No LCD operation checks an operand. -/
theorem lcdProgram_checksFirst {i : Instr} {pr : Program LcdData} (h : lcdProgram Config.params i = some pr) :
    ChecksFirst pr.body :=
  .unchecked (lcdProgram_writesLatchThrough h).1.unchecked

/-! ### Runs that raise `InvalidArgument` -/

/-- A bad answer never raises `InvalidArgument` (60_exceptions.md R142, R143). -/
theorem failStatus_ne_invalidArgument (e : Event) : failStatus e ≠ .invalidArgument := by
  cases e <;> simp [failStatus]

/-- Without a check `InvalidArgument` is not raised. -/
theorem run_unchecked_stop (hb : unchecked body = true) (k : Nat) (d : D) (as : List Answer) :
    (run body k d as).stop ≠ .raised .invalidArgument := by
  induction body generalizing k d as with
  | nil => simp
  | cons q rest ih =>
    obtain ⟨hq, hrest⟩ := unchecked_cons.mp hb
    cases q with
    | assign f => exact ih hrest _ _ _
    | check ok => cases hq
    | ret v => simp
    | call ev an =>
      match as with
      | [] => simp
      | .complete :: as => exact ih hrest _ _ as
      | .fail :: as => simpa using failStatus_ne_invalidArgument (ev d)

/-- A run that raises `InvalidArgument` has changed no register, sent nothing and taken no answer. -/
theorem run_invalidArgument (hb : ChecksFirst body) (k : Nat) (d : D) (as : List Answer)
    (h : (run body k d as).stop = .raised .invalidArgument) :
    run body k d as = { data := d, events := [], answers := as, stop := .raised .invalidArgument } := by
  induction hb generalizing k with
  | check ok _ ih =>
    cases ok with
    | true => exact ih (k + 1) h
    | false => rfl
  | unchecked hb => exact absurd h (run_unchecked_stop hb k d as)

/-- An operation that ends with `InvalidArgument` has left its unit as it was but for the response. -/
theorem launch_invalidArgument {u : Driver D} {op : Instr} {pr : Program D} (hb : ChecksFirst pr.body)
    (hidle : (u.launch op pr).port.seq = .idle) (hst : (u.launch op pr).port.status = .invalidArgument) :
    u.launch op pr = u.finished u.data [] u.port.answers .invalidArgument false := by
  obtain ⟨v, -, hl⟩ | ⟨st, hs, hl⟩ | ⟨k, -, hl⟩ := launch_cases u op pr
  · simp [hl] at hst
  · obtain rfl : st = .invalidArgument := by simpa [hl] using hst
    rw [hl, run_invalidArgument hb _ _ _ hs]
    rfl
  · simp [hl] at hidle

/-! ### The statement -/

/-- Settles O36: the operation is its program launched in its own unit (`exec_next_cases`), whose checks come first, so
ending with `InvalidArgument` it has left that unit's registers, trace and answers (`launch_invalidArgument`). -/
theorem invalidArgumentChangesNothing : Obligations.InvalidArgumentChangesNothing := by
  unfold Obligations.InvalidArgumentChangesNothing
  intro i s t h hidle hst
  obtain ⟨hu, -, pr, hp, rfl⟩ | ⟨hu, -, pr, hp, rfl⟩ | ⟨hu, -, pr, hp, rfl⟩ := exec_next_cases h <;>
    rw [hu] at hidle hst ⊢
  · simp [launch_invalidArgument (segProgram_checksFirst hp) hidle hst]
  · simp [launch_invalidArgument (matProgram_checksFirst hp) hidle hst]
  · simp [launch_invalidArgument (lcdProgram_checksFirst hp) hidle hst]

end Sys2Proof.Machine
end

section
/-! Requests and their encoding (30_encoding.md R50 to R52, R61): which fields of a request its operation uses, and that
decoding and encoding are inverse on them. -/

namespace Sys2Proof

/-! ### The fields an opcode uses -/

/-- The opcodes that use all of `a`. -/
def opcodesWithInt : List Byte := [0x13, 0x14, 0x15, 0x16, 0x24, 0x25, 0x26, 0x27]

/-- The opcodes that use bits 7:0 of `a`, a `u8` operand. -/
def opcodesWithU8 : List Byte := [0x31, 0x35]

/-- The opcodes that use `b`. -/
def opcodesWithSecondInt : List Byte := [0x15, 0x16, 0x25, 0x26]

/-- The opcodes that use `flag`. -/
def opcodesWithFlag : List Byte := [0x12, 0x22, 0x23, 0x25, 0x31, 0x33]

/-- The part of `a` that the operation of an opcode uses. -/
def usedOperand (opcode : Byte) (a : Word) : Word :=
  if opcode ∈ opcodesWithInt then a
  else if opcode ∈ opcodesWithU8 then BitVec.ofNat 32 (a.toNat % 2 ^ 8)
  else if opcode = 0x33 then BitVec.ofNat 32 (a.toNat % 2 ^ 3)
  else 0

/-- A request with every bit its opcode does not use set to 0. -/
def Request.used (r : Request) : Request where
  opcode := r.opcode
  a := usedOperand r.opcode r.a
  b := if r.opcode ∈ opcodesWithSecondInt then r.b else 0
  flag := if r.opcode ∈ opcodesWithFlag then r.flag else false
  text := if r.opcode = 0x32 then r.text else []

theorem usedOperand_int {opcode : Byte} (h : opcode ∈ opcodesWithInt) (a : Word) : usedOperand opcode a = a :=
  if_pos h

theorem usedOperand_u8 {opcode : Byte} (h : opcode ∈ opcodesWithU8) (a : Word) :
    usedOperand opcode a = BitVec.ofNat 32 (a.toNat % 2 ^ 8) := by
  have hd : ∀ o ∈ opcodesWithU8, o ∉ opcodesWithInt := by decide
  rw [usedOperand, if_neg (hd _ h), if_pos h]

theorem usedOperand_u3 {opcode : Byte} (h : opcode = 0x33) (a : Word) :
    usedOperand opcode a = BitVec.ofNat 32 (a.toNat % 2 ^ 3) := by
  subst h
  rfl

theorem usedOperand_none {opcode : Byte} (h : opcode ∉ opcodesWithInt) (h8 : opcode ∉ opcodesWithU8)
    (h3 : opcode ≠ 0x33) (a : Word) : usedOperand opcode a = 0 := by
  rw [usedOperand, if_neg h, if_neg h8, if_neg h3]

/-! ### Operands of 8 and 3 bits -/

theorem setWidth_fieldU8 (a : Word) : (fieldU8 a).setWidth 32 = BitVec.ofNat 32 (a.toNat % 2 ^ 8) := by
  apply BitVec.eq_of_toNat_eq
  simp [fieldU8]

theorem setWidth_fieldU3 (a : Word) : (fieldU3 a).setWidth 32 = BitVec.ofNat 32 (a.toNat % 2 ^ 3) := by
  apply BitVec.eq_of_toNat_eq
  simp [fieldU3]

@[simp] theorem fieldU8_setWidth (v : Byte) : fieldU8 (v.setWidth 32) = v := by
  apply BitVec.eq_of_toNat_eq
  simp [fieldU8]

@[simp] theorem fieldU3_setWidth (v : BitVec 3) : fieldU3 (v.setWidth 32) = v := by
  apply BitVec.eq_of_toNat_eq
  simp [fieldU3]

/-! ### Decoding and encoding are inverse -/

/-- The operation a request decodes to has that request, with the unused bits 0, as its own. -/
theorem encode_of_decode {r : Request} {i : Instr} (h : decode r = .operation i) : encode i = some r.used := by
  obtain ⟨opcode, a, b, flag, text⟩ := r
  have hop : opcode = BitVec.ofNat 8 opcode.toNat := by simp
  unfold decode at h
  split at h
  case h_22 => cases h
  all_goals
    next hn =>
      rw [hn] at hop
      subst hop
      cases h
      simp only [encode, setWidth_fieldU8, setWidth_fieldU3]
      rfl

theorem decode_of_encode {r : Request} {i : Instr} (h : encode i = some r) : decode r = .operation i := by
  cases i with
  | lcdWrite8 v m => cases h; simp [decode, mkRequest]
  | lcdSetPin q l => cases h; simp [decode, mkRequest]
  | lcdCommand v => cases h; simp [decode, mkRequest]
  | _ => cases h <;> rfl

/-- The operations a request can name are those that have a request. -/
theorem encode_isSome (i : Instr) : (encode i).isSome = i.isRequest := by
  cases i <;> rfl

theorem isRequest_of_decode {r : Request} {i : Instr} (h : decode r = .operation i) : i.isRequest = true := by
  rw [← encode_isSome, encode_of_decode h]
  rfl

theorem encode_eq_none {i : Instr} (h : i.isRequest = false) : encode i = none := by
  rw [← encode_isSome] at h
  simpa using h

/-! ### Reserved opcodes -/

/-- Settles O49: the 21 opcodes of the table are those outside the ranges listed, and decode to an operation. -/
theorem reservedOpcodesAsListed : Obligations.ReservedOpcodesAsListed := by
  unfold Obligations.ReservedOpcodesAsListed
  intro r
  unfold decode
  split
  case h_22 => simp only [true_iff, imp_false] at *; omega
  all_goals simp only [reduceCtorEq, false_iff]; omega

theorem opcode_of_decode_reserved {r : Request} {opcode : Byte} (h : decode r = .reserved opcode) :
    opcode = r.opcode := by
  unfold decode at h
  split at h <;> cases h
  rfl

/-- Whether a request is reserved is a matter of its opcode. -/
theorem decode_reserved_congr {r r' : Request} (ho : r'.opcode = r.opcode) (h : decode r = .reserved r.opcode) :
    decode r' = .reserved r'.opcode := by
  rw [reservedOpcodesAsListed] at h ⊢
  rwa [ho]

/-- A request decodes as its used part does. -/
theorem decode_used (r : Request) : decode r.used = decode r := by
  cases hd : decode r with
  | operation i => exact decode_of_encode (encode_of_decode hd)
  | reserved opcode =>
    obtain rfl := opcode_of_decode_reserved hd
    exact decode_reserved_congr (r := r) (r' := r.used) rfl hd

/-- Requests with the same used part decode alike. -/
theorem decode_congr {r r' : Request} (h : r'.used = r.used) : decode r' = decode r := by
  rw [← decode_used r', h, decode_used]

/-- Settles O48: an operation's request is the used part of every request that decodes to it (`encode_of_decode`), and
a change of bits that are not used leaves that part, so the decoding (`decode_congr`). -/
theorem decodeInvertsEncode : Obligations.DecodeInvertsEncode := by
  unfold Obligations.DecodeInvertsEncode
  refine ⟨fun i hi => ?_, fun i hi => ⟨encode_eq_none hi, fun r hr => ?_⟩, fun r i h => ?_,
    fun r a ho ha => decode_congr ?_, fun r a ho ha => decode_congr ?_, fun r text ho => decode_congr ?_,
    fun r flag ho => decode_congr ?_, fun r b ho => decode_congr ?_, fun r a ho => decode_congr ?_⟩
  · rw [← encode_isSome, Option.isSome_iff_exists] at hi
    obtain ⟨r, hr⟩ := hi
    exact ⟨r, hr, decode_of_encode hr⟩
  · simp [isRequest_of_decode hr] at hi
  · exact ⟨r.used, encode_of_decode h, rfl, fun ho => usedOperand_int ho _, fun ho => usedOperand_u8 ho _,
      fun ho => usedOperand_u3 ho _, fun ho => if_pos ho, fun ho => if_pos ho,
      fun ho => if_pos ho⟩
  · simp only [Request.used, usedOperand_u8 ho, ha]
  · simp only [Request.used, usedOperand_u3 ho, ha]
  · simp only [Request.used, if_neg ho]
  · have hf : r.opcode ∉ opcodesWithFlag := ho
    simp only [Request.used, if_neg hf]
  · have hb : r.opcode ∉ opcodesWithSecondInt := ho
    simp only [Request.used, if_neg hb]
  · have hi : r.opcode ∉ opcodesWithInt := fun h => ho (by simp_all [opcodesWithInt])
    have h8 : r.opcode ∉ opcodesWithU8 := fun h => ho (by simp_all [opcodesWithU8])
    have h3 : r.opcode ≠ 0x33 := fun h => ho (by simp [h])
    simp only [Request.used, usedOperand_none hi h8 h3]

/-- Settles O51: each word by evaluation. -/
theorem sampleWordsDecode : Obligations.SampleWordsDecode := by
  unfold Obligations.SampleWordsDecode
  decide

end Sys2Proof
end

section
/-! The invariants of the step (10_state.md R20; 20_memory.md R31 to R34, R37). A step is a move of at most one unit:
the launch of a request, going on after an answer, or the response to a reserved opcode. What each kind of move keeps
in each unit, every step keeps (`step_keeps`). -/

namespace Sys2Proof.Machine

/-! ### The equations of `step` -/

section StepEquations
variable {s : State} {r : Request} {rest : List Request}

theorem step_of_no_request (hr : s.requests = []) : step s = goOnOrWait s := by
  simp [step, fetch, hr]

theorem step_of_operation {i : Instr} (hr : s.requests = r :: rest) (hd : decode r = .operation i) :
    step s = if s.unitIdle i.unit then exec i { s with requests := rest } else goOnOrWait s := by
  cases hi : s.unitIdle i.unit <;> simp [step, fetch, hr, hd, hi]

theorem step_of_reserved {opcode : Byte} (hr : s.requests = r :: rest) (hd : decode r = .reserved opcode) :
    step s = if reservedReady opcode s then .next (answerReserved opcode { s with requests := rest })
      else goOnOrWait s := by
  cases hi : reservedReady opcode s <;> simp [step, fetch, hr, hd, hi]

/-- SEG goes on if its answer has come. -/
theorem goOnOrWait_seg {u : Driver SegData} (hs : s.seg.answerReady = true)
    (hu : s.seg.goOnWith (segProgram Config.params) = some u) : goOnOrWait s = .next { s with seg := u } := by
  simp [goOnOrWait, resumeSeg, hs, hu]

/-- MAT goes on if its answer has come and none to SEG. -/
theorem goOnOrWait_mat {u : Driver MatData} (hs : s.seg.answerReady = false) (hm : s.mat.answerReady = true)
    (hu : s.mat.goOnWith (matProgram Config.params) = some u) : goOnOrWait s = .next { s with mat := u } := by
  simp [goOnOrWait, resumeMat, hs, hm, hu]

/-- LCD goes on if its answer has come and none to SEG and MAT. -/
theorem goOnOrWait_lcd {u : Driver LcdData} (hs : s.seg.answerReady = false) (hm : s.mat.answerReady = false)
    (hl : s.lcd.answerReady = true) (hu : s.lcd.goOnWith (lcdProgram Config.params) = some u) :
    goOnOrWait s = .next { s with lcd := u } := by
  simp [goOnOrWait, resumeLcd, hs, hm, hl, hu]

theorem goOnOrWait_waits (h : ∀ u, s.answerReady u = false) : goOnOrWait s = .next s := by
  have hs : s.seg.answerReady = false := h .seg
  have hm : s.mat.answerReady = false := h .mat
  have hl : s.lcd.answerReady = false := h .lcd
  simp [goOnOrWait, hs, hm, hl]

end StepEquations

variable {D : Type}

/-! ### What every move of a unit keeps -/

/-- Each kind of move that a step makes with a unit keeps `P`. -/
structure KeptByMoves (programs : Instr → Option (Program D)) (P : Driver D → Prop) : Prop where
  launch : ∀ {u : Driver D} {op : Instr} {pr : Program D}, programs op = some pr → op.isRequest = true → P u →
    P (u.launch op pr)
  goOn : ∀ {u v : Driver D}, u.goOnWith programs = some v → P u → P v
  respond : ∀ {u : Driver D}, P u → P (u.respond .unknownOperation false)

section StepKeeps
variable {Ps : Driver SegData → Prop} {Pm : Driver MatData → Prop} {Pl : Driver LcdData → Prop} {s t : State}
  (hs : KeptByMoves (segProgram Config.params) Ps) (hm : KeptByMoves (matProgram Config.params) Pm)
  (hl : KeptByMoves (lcdProgram Config.params) Pl) (h : Ps s.seg ∧ Pm s.mat ∧ Pl s.lcd)
include hs hm hl h

theorem exec_keeps {i : Instr} (hi : i.isRequest = true) (hx : exec i s = .next t) :
    Ps t.seg ∧ Pm t.mat ∧ Pl t.lcd := by
  obtain ⟨hseg, hmat, hlcd⟩ := h
  obtain ⟨-, -, pr, hp, rfl⟩ | ⟨-, -, pr, hp, rfl⟩ | ⟨-, -, pr, hp, rfl⟩ := exec_next_cases hx
  · exact ⟨hs.launch hp hi hseg, hmat, hlcd⟩
  · exact ⟨hseg, hm.launch hp hi hmat, hlcd⟩
  · exact ⟨hseg, hmat, hl.launch hp hi hlcd⟩

theorem answerReserved_keeps (opcode : Byte) :
    Ps (answerReserved opcode s).seg ∧ Pm (answerReserved opcode s).mat ∧ Pl (answerReserved opcode s).lcd := by
  obtain ⟨hseg, hmat, hlcd⟩ := h
  unfold answerReserved
  split
  · exact ⟨hs.respond hseg, hmat, hlcd⟩
  · exact ⟨hseg, hm.respond hmat, hlcd⟩
  · exact ⟨hseg, hmat, hl.respond hlcd⟩
  · exact ⟨hseg, hmat, hlcd⟩

theorem goOnOrWait_keeps (hw : goOnOrWait s = .next t) : Ps t.seg ∧ Pm t.mat ∧ Pl t.lcd := by
  obtain ⟨hseg, hmat, hlcd⟩ := h
  obtain ⟨u, -, hu, rfl⟩ | ⟨u, -, hu, rfl⟩ | ⟨u, -, hu, rfl⟩ | rfl := goOnOrWait_cases hw
  · exact ⟨hs.goOn hu hseg, hmat, hlcd⟩
  · exact ⟨hseg, hm.goOn hu hmat, hlcd⟩
  · exact ⟨hseg, hmat, hl.goOn hu hlcd⟩
  · exact ⟨hseg, hmat, hlcd⟩

/-- What each move keeps in each unit, every step keeps; a request it launches is one the decoder reads. -/
theorem step_keeps (hstep : step s = .next t) : Ps t.seg ∧ Pm t.mat ∧ Pl t.lcd := by
  obtain ⟨r, rest, i, -, hd, -, hx⟩ | ⟨r, rest, opcode, -, -, -, rfl⟩ | hw := step_cases hstep
  · exact exec_keeps (s := { s with requests := rest }) hs hm hl h (isRequest_of_decode hd) hx
  · exact answerReserved_keeps (s := { s with requests := rest }) hs hm hl h opcode
  · exact goOnOrWait_keeps hs hm hl h hw

end StepKeeps

/-! ### Sequencer positions -/

/-- Going on from a call of a body, a run that waits waits at a call of that body. -/
theorem goOn_waiting {body : List (Stmt D)} {k j : Nat} {d : D} {as : List Answer} {g : Progress D}
    (h : goOn (body.drop k) k d as = some g) (hs : g.stop = .waiting j) :
    ∃ ev an, body[j]? = some (.call ev an) := by
  rw [(goOn_data_stop h).2] at hs
  obtain ⟨-, hk, ev, an, -, hb, -⟩ := run_waiting _ _ _ _ _ hs
  rw [List.getElem?_drop, Nat.add_sub_cancel' hk] at hb
  exact ⟨ev, an, hb⟩

/-- An operation that waits, if at all, at one of its calls leaves its unit at a sound position. -/
theorem settle_positionSound {programs : Instr → Option (Program D)} {u : Driver D} {op : Instr} {pr : Program D}
    (hp : programs op = some pr) {g : Progress D}
    (hg : ∀ j, g.stop = .waiting j → ∃ ev an, pr.body[j]? = some (.call ev an)) :
    (u.settle op pr g).PositionSound programs := by
  obtain ⟨d, es, as, stop⟩ := g
  cases stop with
  | returned v => exact .inl rfl
  | raised st => exact .inl rfl
  | waiting k =>
    obtain ⟨ev, an, hk⟩ := hg k rfl
    exact .inr (by simp [Driver.settle, Driver.suspend, Driver.outstanding, hp, hk])

theorem positionSound_keptByMoves (programs : Instr → Option (Program D)) :
    KeptByMoves programs (Driver.PositionSound programs) where
  launch hp _ _ := settle_positionSound hp fun j hj => by
    obtain ⟨-, -, ev, an, -, hb, -⟩ := run_waiting _ _ _ _ _ hj
    exact ⟨ev, an, hb⟩
  goOn hv _ := by
    obtain ⟨op, k, pr, g, -, hp, hg, rfl⟩ := goOnWith_cases hv
    exact settle_positionSound hp fun j hj => goOn_waiting hg hj
  respond _ := .inl rfl

/-- Settles O58: a run, and going on, waits at a call of its own body only (`run_waiting`, `goOn_waiting`). -/
theorem stepKeepsSequencersSound : Obligations.StepKeepsSequencersSound := by
  unfold Obligations.StepKeepsSequencersSound
  intro s t h hstep
  exact step_keeps (positionSound_keptByMoves _) (positionSound_keptByMoves _) (positionSound_keptByMoves _) h hstep

/-! ### No fault -/

theorem goOn_call (ev : D → Event) (an : Answer → D → D) (rest : List (Stmt D)) (k : Nat) (d : D) (as : List Answer) :
    ∃ g, goOn (.call ev an :: rest) k d as = some g := by
  match as with
  | [] => exact ⟨_, rfl⟩
  | .complete :: as => exact ⟨_, rfl⟩
  | .fail :: as => exact ⟨_, rfl⟩

/-- A unit in the middle of an operation goes on as that operation does from its outstanding call. -/
theorem goOnWith_of_goOn {programs : Instr → Option (Program D)} {u : Driver D} {op : Instr} {k : Nat} {pr : Program D}
    {g : Progress D} (hs : u.port.seq = .busy op k) (hp : programs op = some pr)
    (hg : goOn (pr.body.drop k) k u.data u.port.answers = some g) : u.goOnWith programs = some (u.settle op pr g) := by
  simp only [Driver.goOnWith, hs, hp, Driver.resume, hg]

/-- A unit at a sound position whose answer has come can go on. -/
theorem goOnWith_of_positionSound {programs : Instr → Option (Program D)} {u : Driver D}
    (h : u.PositionSound programs) (hr : u.answerReady = true) : ∃ v, u.goOnWith programs = some v := by
  obtain hi | ho := h
  · simp [Driver.answerReady, Driver.isIdle, hi] at hr
  · unfold Driver.outstanding at ho
    split at ho
    · cases ho
    · next op k hs =>
      split at ho
      · cases ho
      · next pr hp =>
        split at ho
        · next ev an hk =>
          obtain ⟨hlt, hk⟩ := List.getElem?_eq_some_iff.mp hk
          obtain ⟨g, hg⟩ := goOn_call ev an (pr.body.drop (k + 1)) k u.data u.port.answers
          rw [← hk, ← List.drop_eq_getElem_cons hlt] at hg
          exact ⟨_, goOnWith_of_goOn hs hp hg⟩
        all_goals cases ho

theorem goOnOrWait_ne_fault {s : State} (h : SequencersSound Config.params s) (f : Fault) :
    goOnOrWait s ≠ .fault f := by
  obtain ⟨hs, hm, hl⟩ := h
  unfold goOnOrWait
  split
  · next hr =>
    obtain ⟨v, hv⟩ := goOnWith_of_positionSound hs hr
    simp [resumeSeg, hv]
  · split
    · next hr =>
      obtain ⟨v, hv⟩ := goOnWith_of_positionSound hm hr
      simp [resumeMat, hv]
    · split
      · next hr =>
        obtain ⟨v, hv⟩ := goOnWith_of_positionSound hl hr
        simp [resumeLcd, hv]
      · simp

/-- Carrying out an operation answers a next state or a refusal. -/
theorem exec_ne_fault (i : Instr) (s : State) (f : Fault) : exec i s ≠ .fault f := by
  obtain ⟨-, ⟨pr, hp⟩, -⟩ | ⟨-, ⟨pr, hp⟩, -⟩ | ⟨-, ⟨pr, hp⟩, -⟩ := program_exists Config.params i
  · rw [exec_seg hp, startSeg]
    split <;> simp
  · obtain he | ⟨he, -⟩ := exec_mat hp s
    · rw [he, startMat]
      split <;> simp
    · simp [he]
  · rw [exec_lcd hp, startLcd]
    split <;> simp

/-- Settles O59: only a unit that goes on from a position at no call of its own faults
(`goOnWith_of_positionSound`, `exec_ne_fault`). -/
theorem soundSequencersNeverFault : Obligations.SoundSequencersNeverFault := by
  unfold Obligations.SoundSequencersNeverFault
  intro s f h hf
  cases hr : s.requests with
  | nil => exact goOnOrWait_ne_fault h f (step_of_no_request hr ▸ hf)
  | cons r rest =>
    cases hd : decode r with
    | operation i =>
      rw [step_of_operation hr hd] at hf
      split at hf
      · exact exec_ne_fault _ _ f hf
      · exact goOnOrWait_ne_fault h f hf
    | reserved opcode =>
      rw [step_of_reserved hr hd] at hf
      split at hf
      · cases hf
      · exact goOnOrWait_ne_fault h f hf

end Sys2Proof.Machine
end

section
/-! Which events each unit sends (20_memory.md R31 to R34, R37): the calls of each operation's body, the frames of the
table for MAT, and that every step keeps the traces to them. -/

namespace Sys2Proof.Machine

variable {D : Type}

/-! ### Bodies whose calls send events of a set only -/

/-- Every call of the body sends an event of `Q`. -/
def AllSend (Q : Event → Prop) (body : List (Stmt D)) : Prop :=
  ∀ q ∈ body, match q with
    | .assign _ => True
    | .check _ => True
    | .ret _ => True
    | .call ev _ => ∀ d, Q (ev d)

section AllSend
variable {Q : Event → Prop} {body rest : List (Stmt D)}

@[simp] theorem allSend_nil : AllSend Q ([] : List (Stmt D)) := by
  simp [AllSend]
@[simp] theorem allSend_assign (f : D → D) : AllSend Q (.assign f :: rest) ↔ AllSend Q rest := by
  simp [AllSend]
@[simp] theorem allSend_check (ok : Bool) : AllSend Q (.check ok :: rest : List (Stmt D)) ↔ AllSend Q rest := by
  simp [AllSend]
@[simp] theorem allSend_ret (v : D → Bool) : AllSend Q (.ret v :: rest) ↔ AllSend Q rest := by
  simp [AllSend]
@[simp] theorem allSend_call (ev : D → Event) (an : Answer → D → D) :
    AllSend Q (.call ev an :: rest) ↔ (∀ d, Q (ev d)) ∧ AllSend Q rest := by
  simp [AllSend]
@[simp] theorem allSend_plainCall (ev : D → Event) :
    AllSend Q (plainCall ev :: rest) ↔ (∀ d, Q (ev d)) ∧ AllSend Q rest :=
  allSend_call ev _
@[simp] theorem allSend_append : AllSend Q (body ++ rest) ↔ AllSend Q body ∧ AllSend Q rest := by
  simp [AllSend, or_imp, forall_and]

theorem allSend_flatMap {α : Type} {l : List α} {f : α → List (Stmt D)} (h : ∀ x ∈ l, AllSend Q (f x)) :
    AllSend Q (l.flatMap f) := by
  intro q hq
  obtain ⟨x, hx, hq⟩ := List.mem_flatMap.mp hq
  exact h x hx q hq

theorem AllSend.drop (h : AllSend Q body) (k : Nat) : AllSend Q (body.drop k) :=
  fun q hq => h q (List.mem_of_mem_drop hq)

theorem run_events_of_allSend (h : AllSend Q body) (k : Nat) (d : D) (as : List Answer) :
    ∀ e ∈ (run body k d as).events, Q e := by
  refine (run_keeps (fun _ => True) Q body (fun q hq => ?_) k d as trivial).2
  have hQ := h q hq
  cases q with
  | assign f => exact fun _ _ => trivial
  | check ok => trivial
  | ret v => trivial
  | call ev an => exact fun d _ => ⟨hQ d, fun _ => trivial⟩

/-- Going on from a call sends what the statements after it send. -/
theorem goOn_events_of_allSend {k : Nat} {d : D} {as : List Answer} {g : Progress D}
    (h : ∀ ev an rest, body = .call ev an :: rest → AllSend Q rest) (hg : goOn body k d as = some g) :
    ∀ e ∈ g.events, Q e := by
  obtain ⟨ev, an, rest, hb, ⟨-, rfl⟩ | ⟨as', -, rfl⟩ | ⟨as', -, rfl⟩⟩ := goOn_cases hg
  · simp
  · exact run_events_of_allSend (h ev an rest hb) _ _ _
  · simp

end AllSend

/-- A trace stays within `Q` if each request of the unit, run from its start, sends events of `Q`, and so do the
statements after each call of each operation. -/
theorem trace_keptByMoves {programs : Instr → Option (Program D)} {Q : Event → Prop}
    (hrun : ∀ {op pr}, programs op = some pr → op.isRequest = true → ∀ d as, ∀ e ∈ (run pr.body 0 d as).events, Q e)
    (hafter : ∀ {op pr}, programs op = some pr → ∀ k ev an rest, pr.body.drop k = .call ev an :: rest →
      AllSend Q rest) :
    KeptByMoves programs (fun u => ∀ e ∈ u.port.trace, Q e) where
  launch {u op pr} hp hi hu e he := by
    rw [Driver.launch, settle_trace, List.mem_append] at he
    exact he.elim (hu e) (hrun hp hi _ _ e)
  goOn {u v} hv hu e he := by
    obtain ⟨op, k, pr, g, -, hp, hg, rfl⟩ := goOnWith_cases hv
    rw [settle_trace, List.mem_append] at he
    exact he.elim (hu e) (goOn_events_of_allSend (hafter hp k) hg e)
  respond hu := hu

/-- The same, of units all of whose calls send events of `Q`. -/
theorem trace_keptByMoves_of_allSend {programs : Instr → Option (Program D)} {Q : Event → Prop}
    (h : ∀ {op pr}, programs op = some pr → AllSend Q pr.body) :
    KeptByMoves programs (fun u => ∀ e ∈ u.port.trace, Q e) :=
  trace_keptByMoves (fun hp _ => run_events_of_allSend (h hp) 0) fun hp k ev an rest hk => by
    have hd := (h hp).drop k
    rw [hk, allSend_call] at hd
    exact hd.2

/-! ### SEG -/

@[simp] theorem segMaySend_strobe (addr : Byte) : segMaySend (.busStrobe addr) = true := rfl

theorem segMaySend_bulk (fb : Vector Byte 16) :
    segMaySend (.busBulk segDataBaseReg fb.toList segBufLen) = true := by
  simp [segMaySend]

theorem allSend_segBulk : AllSend (segMaySend · = true) [segBulk] := by
  simp only [segBulk, allSend_plainCall, allSend_nil, and_true]
  exact fun d => segMaySend_bulk d.fb

@[simp] theorem allSend_segCmdbyteBody (c v : Nibble) : AllSend (segMaySend · = true) (segCmdbyteBody c v) := by
  simp [segCmdbyteBody, strobe]

theorem segProgram_allSend {p : Params} {op : Instr} {pr : Program SegData} (h : segProgram p op = some pr) :
    AllSend (segMaySend · = true) pr.body := by
  cases op with
  | segClear => cases h; simp [segProgramOf, segClearBody]
  | segRefresh => cases h; simp [segProgramOf, segRefreshBody, segDisplayDataBody, allSend_segBulk]
  | segSetEnabled e =>
    cases h; simp [segSetEnabledProgram, segSetEnabledBody, segSystemSetupBody, segDisplaySetupBody]
  | segSetBlinkRate v => cases h; simp [segProgramOf, segSetBlinkRateBody, segDisplaySetupBody]
  | segSetBrightness v => cases h; simp [segProgramOf, segSetBrightnessBody, segDimmingSetBody]
  | segExecute c v => cases h; simp [segProgramOf, segExecuteBody]
  | segWriteBuffer k v => cases h; simp [segProgramOf, segWriteBufferBody]
  | segCmdbyte c v => cases h; exact allSend_segCmdbyteBody _ _
  | segDisplayData => cases h; exact allSend_segCmdbyteBody _ _
  | segSystemSetup o => cases h; exact allSend_segCmdbyteBody _ _
  | segDisplaySetup r o => cases h; exact allSend_segCmdbyteBody _ _
  | segDimmingSet v => cases h; exact allSend_segCmdbyteBody _ _
  | _ => cases h

/-! ### MAT -/

theorem rowCommand_toNat {p : Params} (hp : p.Valid) (row : BitVec 3) :
    (rowCommand p row).toNat = p.matCmdRowBase.toNat + row.toNat := by
  have hbase : p.matCmdRowBase.toNat + 7 ≤ 255 := hp.2.1.1
  have hrow := row.isLt
  simp [rowCommand]
  omega

theorem isSome_ite_some {α : Type} {c : Prop} [Decidable c] {a : α} {o : Option α} :
    (if c then some a else o).isSome = true ↔ c ∨ o.isSome = true := by
  split <;> simp [*]

/-- The frames of the table of 20_memory.md R37 (b), as an observer tells them. -/
theorem matMaySend_frame {p : Params} {cmd data : Byte} :
    matMaySend p (.busFrame cmd data) = true ↔
      (p.matCmdRowBase.toNat ≤ cmd.toNat ∧ cmd.toNat ≤ p.matCmdRowBase.toNat + 7) ∨
      (cmd = p.matCmdShutdown ∧ (data = p.matDataRun ∨ data = p.matDataHold)) ∨
      (cmd = p.matCmdDecodeMode ∧ data = p.matDataNoDecode) ∨
      (cmd = p.matCmdScanLimit ∧ data = p.matDataScanAll) ∨
      (cmd = p.matCmdIntensity ∧ data.toNat < 16) ∨
      (cmd = p.matCmdDisplayTest ∧ (data = p.matDataTestOn ∨ data = p.matDataTestOff)) := by
  simp [matMaySend, readFrame, isSome_ite_some, and_or_left, or_assoc]

section MatSends
variable {p : Params}

theorem allSend_matRowBody (hp : p.Valid) (row : BitVec 3) :
    AllSend (matMaySend p · = true) (matRowBody p row) := by
  have hrow := row.isLt
  have hcmd := rowCommand_toNat hp row
  simp only [matRowBody, allSend_plainCall, allSend_nil, matMaySend_frame]
  exact ⟨fun d => .inl (by omega), trivial⟩

theorem allSend_frame {cmd data : Byte} (h : matMaySend p (.busFrame cmd data) = true) :
    AllSend (matMaySend p · = true) [frame cmd data] := by
  simp [frame, h]

theorem allSend_matShutdownBody (on : Bool) : AllSend (matMaySend p · = true) (matShutdownBody p on) :=
  allSend_frame (by cases on <;> simp [matMaySend_frame])

theorem allSend_matDecodeModeBody : AllSend (matMaySend p · = true) (matDecodeModeBody p) :=
  allSend_frame (by simp [matMaySend_frame])

theorem allSend_matScanLimitBody : AllSend (matMaySend p · = true) (matScanLimitBody p) :=
  allSend_frame (by simp [matMaySend_frame])

theorem allSend_matIntensityBody {level : Byte} (h : level.toNat < 16) :
    AllSend (matMaySend p · = true) (matIntensityBody p level) :=
  allSend_frame (by simp [matMaySend_frame, h])

theorem allSend_matDisplayTestBody (on : Bool) : AllSend (matMaySend p · = true) (matDisplayTestBody p on) :=
  allSend_frame (by cases on <;> simp [matMaySend_frame])

/-- Of the operations of MAT but the two that send an intensity frame, whose level the body does not fix, every call
sends a frame of the table. -/
theorem matProgram_allSend (hp : p.Valid) {op : Instr} {pr : Program MatData} (h : matProgram p op = some pr)
    (hb : ∀ v, op ≠ .matSetBrightness v) (hi : ∀ v, op ≠ .matIntensity v) :
    AllSend (matMaySend p · = true) pr.body := by
  cases op with
  | matClear => cases h; simp [matProgramOf, matClearBody]
  | matRefresh => cases h; exact allSend_flatMap fun row _ => allSend_matRowBody hp row
  | matSetEnabled e =>
    cases h
    cases e <;> simp [matSetEnabledProgram, matSetEnabledBody, allSend_matShutdownBody, allSend_matDecodeModeBody,
      allSend_matScanLimitBody]
  | matSetTestMode e => cases h; exact allSend_matDisplayTestBody e
  | matSetBrightness v => exact absurd rfl (hb v)
  | matSetPixel x y e => cases h; simp [matProgramOf, matSetPixelBody]
  | matGetPixel x y => cases h; simp [matProgramOf, matGetPixelBody]
  | matRefreshRow v => cases h; simp [matProgramOf, matRefreshRowBody, allSend_matRowBody hp]
  | matRow r => cases h; exact allSend_matRowBody hp r
  | matShutdown r => cases h; exact allSend_matShutdownBody r
  | matDecodeMode => cases h; exact allSend_matDecodeModeBody
  | matScanLimit => cases h; exact allSend_matScanLimitBody
  | matIntensity v => exact absurd rfl (hi v)
  | matDisplayTest o => cases h; exact allSend_matDisplayTestBody o
  | _ => cases h

/-- A brightness in range is sent as an intensity frame of the table, any other not at all. -/
theorem run_matSetBrightness_events (level : Word) (d : MatData) (as : List Answer) :
    ∀ e ∈ (run (matSetBrightnessBody p level) 0 d as).events, matMaySend p e = true := by
  by_cases hl : 0 ≤ level.toInt ∧ level.toInt ≤ 15
  · have hn : level.toNat ≤ 15 := (toInt_within (by decide)).mp hl
    have hb : (byteField level).toNat < 16 := by simp [byteField]; omega
    exact run_events_of_allSend ((allSend_check _).mpr (allSend_matIntensityBody hb)) 0 d as
  · simp [run_matSetBrightness_illegal 0 d hl]

theorem matProgram_run_events (hp : p.Valid) {op : Instr} {pr : Program MatData} (h : matProgram p op = some pr)
    (hr : op.isRequest = true) (d : MatData) (as : List Answer) :
    ∀ e ∈ (run pr.body 0 d as).events, matMaySend p e = true := by
  by_cases hb : ∃ v, op = .matSetBrightness v
  · obtain ⟨v, rfl⟩ := hb
    cases h
    exact run_matSetBrightness_events v d as
  · have hi : ∀ v, op ≠ .matIntensity v := by
      rintro v rfl
      cases hr
    exact run_events_of_allSend (matProgram_allSend hp h (not_exists.mp hb) hi) 0 d as

/-- The intensity frame is the last statement of the operations that send it, so what follows a call of MAT sends
frames of the table. -/
theorem matProgram_allSend_after (hp : p.Valid) {op : Instr} {pr : Program MatData} (h : matProgram p op = some pr)
    (k : Nat) (ev : MatData → Event) (an : Answer → MatData → MatData) (rest : List (Stmt MatData))
    (hk : pr.body.drop k = .call ev an :: rest) : AllSend (matMaySend p · = true) rest := by
  by_cases hb : ∃ v, op = .matSetBrightness v
  · obtain ⟨v, rfl⟩ := hb
    cases h
    match k with
    | 0 => cases hk
    | 1 => cases hk; exact allSend_nil
    | k + 2 => simp [matProgramOf, matSetBrightnessBody, matIntensityBody] at hk
  by_cases hi : ∃ v, op = .matIntensity v
  · obtain ⟨v, rfl⟩ := hi
    cases h
    match k with
    | 0 => cases hk; exact allSend_nil
    | k + 1 => simp [matProgramOf, matIntensityBody] at hk
  · have hd := (matProgram_allSend hp h (not_exists.mp hb) (not_exists.mp hi)).drop k
    rw [hk, allSend_call] at hd
    exact hd.2

end MatSends

/-! ### LCD -/

section LcdSends
variable {p : Params}

@[simp] theorem lcdMaySend_delay (kind : DelayKind) : lcdMaySend p (.delay kind) = true := rfl

@[simp] theorem lcdMaySend_latch (v : Byte) : lcdMaySend p (.busReg p.lcdRegLatch v) = true := by
  simp [lcdMaySend, readReg]

@[simp] theorem lcdMaySend_direction : lcdMaySend p (.busReg p.lcdRegDirection p.lcdDirAllOutput) = true := by
  simp only [lcdMaySend, readReg]
  split <;> simp

theorem allSend_pinStmts (ws : List (BitVec 3 × Bool)) : AllSend (lcdMaySend p · = true) (pinStmts p ws) :=
  allSend_flatMap fun w _ => by simp [setPinStmts, latchWrite, delayCall]

end LcdSends

theorem lcdProgram_allSend {op : Instr} {pr : Program LcdData} (h : lcdProgram Config.params op = some pr) :
    AllSend (lcdMaySend Config.params · = true) pr.body := by
  cases hw : pinWritesOf Config.params op with
  | some ws =>
    rw [lcdProgram_pins hw] at h
    cases h
    exact allSend_pinStmts ws
  | none =>
    obtain rfl | rfl | rfl := lcd_without_pinWrites h hw
    · cases h
      simp [lcdProgramOf, lcdInitBody_eq, allSend_pinStmts, delayCall]
    · cases h
      simp [lcdProgramOf, lcdLatchBody, latchWrite]
    · cases h
      simp [lcdProgramOf, lcdDirectionBody]

/-! ### The statements -/

/-- Settles O57: what each operation sends is what its unit may send; an intensity frame is sent only after its level
is checked, and no step goes on past one. -/
theorem stepKeepsTracesSound : Obligations.StepKeepsTracesSound := by
  unfold Obligations.StepKeepsTracesSound
  intro s t h hstep
  exact step_keeps (trace_keptByMoves_of_allSend segProgram_allSend)
    (trace_keptByMoves (matProgram_run_events Config.params_valid) (matProgram_allSend_after Config.params_valid))
    (trace_keptByMoves_of_allSend lcdProgram_allSend) h hstep

/-- Settles O56: at reset the traces are empty, the units idle, and the device's latch unknown. -/
theorem invariantsHoldAtReset : Obligations.InvariantsHoldAtReset := by
  unfold Obligations.InvariantsHoldAtReset
  refine ⟨⟨?_, ?_, ?_⟩, ⟨.inl rfl, .inl rfl, .inl rfl⟩, .inl (.inl rfl)⟩ <;> intro e he <;> cases he

/-- Settles O55: each part of the reset state by its definition; the entries of a replicated vector are its value. -/
theorem resetState : Obligations.ResetState := by
  unfold Obligations.ResetState
  refine ⟨fun k => ?_, fun k => ?_, rfl, rfl, rfl, rfl, rfl, fun u => ?_⟩
  · simp [State.reset]
  · simp [State.reset]
  · cases u <;> exact ⟨rfl, rfl, rfl, rfl⟩

/-- Settles O21: base and row together are below 256, and the row read back is their difference. -/
theorem rowCommandDoesNotWrap : Obligations.RowCommandDoesNotWrap := by
  unfold Obligations.RowCommandDoesNotWrap
  intro p row data hp
  have hcmd := rowCommand_toNat hp row
  refine ⟨hcmd, ?_⟩
  have hrow := row.isLt
  have hin : p.matCmdRowBase.toNat ≤ (rowCommand p row).toNat ∧
      (rowCommand p row).toNat ≤ p.matCmdRowBase.toNat + 7 := by omega
  have hback : (rowCommand p row - p.matCmdRowBase).setWidth 3 = row := by
    simp [rowCommand]
  rw [readEvent, readFrame, if_pos hin, hback]

end Sys2Proof.Machine
end

section
/-! The other SEG operations (40_segment.md R72, R74, R76, R77) and the encodings SEG emits (30_encoding.md R55, R56):
the command byte, operations that send one strobe, enabling and disabling, and the write port of the framebuffer. -/

namespace Sys2Proof.Machine

/-! ### The command byte -/

theorem cmdByte_toNat (c v : Nibble) : (cmdByte c v).toNat = 16 * c.toNat + v.toNat := by
  have hc := c.isLt
  have hv := v.isLt
  have hshift : c.toNat <<< 4 % 256 = c.toNat <<< 4 := Nat.mod_eq_of_lt (by rw [Nat.shiftLeft_eq]; omega)
  simp only [cmdByte, BitVec.toNat_or, BitVec.toNat_shiftLeft, BitVec.toNat_setWidth]
  rw [Nat.mod_eq_of_lt (by omega : c.toNat < 2 ^ 8), Nat.mod_eq_of_lt (by omega : v.toNat < 2 ^ 8), hshift,
    ← Nat.shiftLeft_add_eq_or_of_lt hv, Nat.shiftLeft_eq, Nat.mul_comm]

theorem cmdByte_eq_ofNat (c v : Nibble) : cmdByte c v = BitVec.ofNat 8 (16 * c.toNat + v.toNat) := by
  rw [← cmdByte_toNat, BitVec.ofNat_toNat, BitVec.setWidth_eq]

/-- Settles O9: the byte's value gives back both nibbles. -/
theorem commandByteJoinsNibbles : Obligations.CommandByteJoinsNibbles := by
  unfold Obligations.CommandByteJoinsNibbles
  refine ⟨cmdByte_toNat, fun c c' v v' h => ?_⟩
  have hval := congrArg BitVec.toNat h
  rw [cmdByte_toNat, cmdByte_toNat] at hval
  have hv := v.isLt
  have hv' := v'.isLt
  exact ⟨BitVec.eq_of_toNat_eq (by omega), BitVec.eq_of_toNat_eq (by omega)⟩

/-! ### Operations that send one strobe, or are rejected -/

section OneStrobe
variable {i : Instr} {body : List (Stmt SegData)} {s : State}
  (hp : segProgram Config.params i = some (segProgramOf body)) (hi : s.seg.isIdle = true)
include hp hi

/-- An operation that runs as one strobe ends with that strobe sent, and `OK` or the transport failure by its answer. -/
theorem exec_seg_one_strobe {k : Nat} {c v : Nibble}
    (hb : ∀ as, run body 0 s.seg.data as = run (segCmdbyteBody c v) k s.seg.data as) (rest : List Answer) :
    (s.seg.port.answers = .complete :: rest →
      exec i s = .next (s.segEnds s.seg.data [.busStrobe (cmdByte c v)] rest .ok false)) ∧
    (s.seg.port.answers = .fail :: rest →
      exec i s = .next (s.segEnds s.seg.data [.busStrobe (cmdByte c v)] rest .transportFailure false)) :=
  ⟨fun ha => exec_seg_of_returned hp hi ha ((hb _).trans (run_segCmdbyte_complete ..)),
    fun ha => exec_seg_of_raised hp hi ha ((hb _).trans (run_segCmdbyte_fail ..)) (afterException_segProgramOf ..)⟩

/-- An operation that rejects its operands changes nothing but for the response. -/
theorem exec_seg_rejected
    (hb : run body 0 s.seg.data s.seg.port.answers =
      { data := s.seg.data, events := [], answers := s.seg.port.answers, stop := .raised .invalidArgument }) :
    exec i s = .next (s.segEnds s.seg.data [] s.seg.port.answers .invalidArgument false) :=
  exec_seg_of_raised hp hi rfl hb (afterException_segProgramOf ..)

end OneStrobe

section Runs
variable (k : Nat) (d : SegData) (as : List Answer)

/-- A legal blink rate runs as the display-setup strobe with that rate and the display on. -/
theorem run_segSetBlinkRate_legal {p : Params} {rate : Word} (hr : 0 ≤ rate.toInt ∧ rate.toInt ≤ 3) :
    run (segSetBlinkRateBody p rate) k d as =
      run (segCmdbyteBody p.segCmdDisplaySetup (BitVec.ofNat 4 (2 * rate.toNat) ||| p.segSetDisplayOn)) (k + 1) d
        as := by
  have hn : rate.toNat ≤ 3 := (toInt_within (by decide)).mp hr
  have hf : (rateField rate).toNat = rate.toNat := by simp [rateField]; omega
  rw [segSetBlinkRateBody, inRange_true.mpr hr, run_check_true, segDisplaySetupBody, displaySetting_on, hf]

/-- Any other blink rate is rejected before the strobe. -/
theorem run_segSetBlinkRate_illegal {p : Params} {rate : Word} (hr : ¬ (0 ≤ rate.toInt ∧ rate.toInt ≤ 3)) :
    run (segSetBlinkRateBody p rate) k d as =
      { data := d, events := [], answers := as, stop := .raised .invalidArgument } := by
  rw [segSetBlinkRateBody, inRange_false.mpr hr, run_check_false]

/-- Legal operands of `SEG.execute` run as the strobe of their command byte. -/
theorem run_segExecute_legal {command setting : Word} (hc : 0 ≤ command.toInt ∧ command.toInt ≤ 15)
    (hs : 0 ≤ setting.toInt ∧ setting.toInt ≤ 15) :
    run (segExecuteBody command setting) k d as =
      run (segCmdbyteBody (nibbleField command) (nibbleField setting)) (k + 1 + 1) d as := by
  rw [segExecuteBody, inRange_true.mpr hc, inRange_true.mpr hs, run_check_true, run_check_true]

/-- Any other operands of `SEG.execute` are rejected before the strobe. -/
theorem run_segExecute_illegal {command setting : Word}
    (h : ¬ ((0 ≤ command.toInt ∧ command.toInt ≤ 15) ∧ (0 ≤ setting.toInt ∧ setting.toInt ≤ 15))) :
    run (segExecuteBody command setting) k d as =
      { data := d, events := [], answers := as, stop := .raised .invalidArgument } := by
  by_cases hc : 0 ≤ command.toInt ∧ command.toInt ≤ 15
  · have hs : ¬ (0 ≤ setting.toInt ∧ setting.toInt ≤ 15) := fun hs => h ⟨hc, hs⟩
    rw [segExecuteBody, inRange_true.mpr hc, inRange_false.mpr hs, run_check_true, run_check_false]
  · rw [segExecuteBody, inRange_false.mpr hc, run_check_false]

/-- Legal operands of `SEG.writeBuffer` write one entry. -/
theorem run_segWriteBuffer_legal {index value : Word} (hx : 0 ≤ index.toInt ∧ index.toInt ≤ 15)
    (hv : 0 ≤ value.toInt ∧ value.toInt ≤ 255) :
    run (segWriteBufferBody index value) k d as =
      { data := { d with fb := writeEntry d.fb (nibbleField index) (byteField value) }, events := [], answers := as,
        stop := .returned false } := by
  rw [segWriteBufferBody, inRange_true.mpr hx, inRange_true.mpr hv]
  rfl

/-- Any other operands of `SEG.writeBuffer` are rejected before the write. -/
theorem run_segWriteBuffer_illegal {index value : Word}
    (h : ¬ ((0 ≤ index.toInt ∧ index.toInt ≤ 15) ∧ (0 ≤ value.toInt ∧ value.toInt ≤ 255))) :
    run (segWriteBufferBody index value) k d as =
      { data := d, events := [], answers := as, stop := .raised .invalidArgument } := by
  by_cases hx : 0 ≤ index.toInt ∧ index.toInt ≤ 15
  · have hv : ¬ (0 ≤ value.toInt ∧ value.toInt ≤ 255) := fun hv => h ⟨hx, hv⟩
    rw [segWriteBufferBody, inRange_true.mpr hx, inRange_false.mpr hv, run_check_true, run_check_false]
  · rw [segWriteBufferBody, inRange_false.mpr hx, run_check_false]

end Runs

theorem nibbleField_toNat {v : Word} (h : 0 ≤ v.toInt ∧ v.toInt ≤ 15) : (nibbleField v).toNat = v.toNat := by
  have hn : v.toNat ≤ 15 := (toInt_within (by decide)).mp h
  simp [nibbleField]
  omega

/-- Settles O5: a rate in range passes the check and one strobe is run; any other is rejected by the check. -/
theorem segBlinkRateSetsDisplayOn : Obligations.SegBlinkRateSetsDisplayOn := by
  unfold Obligations.SegBlinkRateSetsDisplayOn
  intro s rate rest hidle
  refine ⟨fun hr => ?_, fun hr => ?_⟩
  · exact exec_seg_one_strobe rfl hidle (fun as => run_segSetBlinkRate_legal 0 _ as hr) rest
  · exact exec_seg_rejected rfl hidle (run_segSetBlinkRate_illegal _ _ _ hr)

/-- Settles O7: operands in range pass both checks and the strobe of their byte is run; any other are rejected. -/
theorem segExecuteStrobesCommandByte : Obligations.SegExecuteStrobesCommandByte := by
  unfold Obligations.SegExecuteStrobesCommandByte
  intro s command setting rest hidle
  refine ⟨fun ⟨hc, hs⟩ => ?_, fun h => ?_⟩
  · have hsent := exec_seg_one_strobe (i := .segExecute command setting) rfl hidle
      (fun as => run_segExecute_legal 0 _ as hc hs) rest
    rwa [cmdByte_eq_ofNat, nibbleField_toNat hc, nibbleField_toNat hs] at hsent
  · exact exec_seg_rejected rfl hidle (run_segExecute_illegal _ _ _ h)

/-- Settles O10: each row's body is one strobe, whose command byte is the one listed. -/
theorem segEmittedStrobes : Obligations.SegEmittedStrobes := by
  unfold Obligations.SegEmittedStrobes
  intro s rest hidle ha
  have sent : ∀ {i : Instr} {c v : Nibble}, segProgram Config.params i = some (segProgramOf (segCmdbyteBody c v)) →
      exec i s = .next (s.segEnds s.seg.data [.busStrobe (cmdByte c v)] rest .ok false) :=
    fun hp => (exec_seg_one_strobe (k := 0) hp hidle (fun _ => rfl) rest).1 ha
  refine ⟨fun c v => ?_, ?_, sent rfl, sent rfl, fun rate => ?_, ?_, fun level => sent rfl⟩
  · rw [← cmdByte_eq_ofNat]
    exact sent rfl
  · rw [← cmdByte_displayData]
    exact sent rfl
  · rw [← displaySetting_on]
    exact sent rfl
  · rw [← displaySetting_off]
    exact sent rfl

/-! ### Enabling and disabling -/

/-- Both directions send blink rate 0 (70_reset_and_hazards.md R190). -/
theorem displaySetting_zero (p : Params) (on : Bool) :
    displaySetting p 0 on = if on then p.segSetDisplayOn else p.segSetDisplayOff := by
  cases on <;> simp [displaySetting]

/-- The system-setup strobe of `SEG.setEnabled`. -/
def setupStrobe (p : Params) (enabled : Bool) : Event :=
  .busStrobe (cmdByte p.segCmdSystemSetup (if enabled then p.segSetOscOn else p.segSetOscOff))

/-- The display-setup strobe of `SEG.setEnabled`. -/
def displayStrobe (p : Params) (enabled : Bool) : Event :=
  .busStrobe (cmdByte p.segCmdDisplaySetup (if enabled then p.segSetDisplayOn else p.segSetDisplayOff))

/-- `SEG.setEnabled` under each of its three answer paths. -/
theorem exec_segSetEnabled {s : State} (hi : s.seg.isIdle = true) (enabled : Bool) (rest : List Answer) :
    (s.seg.port.answers = .complete :: .complete :: rest →
      exec (.segSetEnabled enabled) s =
        .next (s.segEnds { s.seg.data with life := if enabled then .enabled else .disabled }
          [setupStrobe Config.params enabled, displayStrobe Config.params enabled] rest .ok false)) ∧
    (s.seg.port.answers = .complete :: .fail :: rest →
      exec (.segSetEnabled enabled) s =
        .next (s.segEnds { s.seg.data with life := .unknown }
          [setupStrobe Config.params enabled, displayStrobe Config.params enabled] rest .transportFailure false)) ∧
    (s.seg.port.answers = .fail :: rest →
      exec (.segSetEnabled enabled) s =
        .next (s.segEnds { s.seg.data with life := .unknown } [setupStrobe Config.params enabled] rest
          .transportFailure false)) := by
  rw [displayStrobe, ← displaySetting_zero]
  exact ⟨fun ha => exec_seg_of_returned rfl hi ha rfl, fun ha => exec_seg_of_raised rfl hi ha rfl rfl,
    fun ha => exec_seg_of_raised rfl hi ha rfl rfl⟩

/-- Settles O3: `exec_segSetEnabled` for `true`; of the two legal display-on settings neither has a blink-rate bit. -/
theorem segEnableOscillatorThenDisplay : Obligations.SegEnableOscillatorThenDisplay := by
  unfold Obligations.SegEnableOscillatorThenDisplay
  intro s rest hidle
  obtain ⟨hcomplete, hdisplay, hsetup⟩ := exec_segSetEnabled hidle true rest
  refine ⟨hcomplete, hdisplay, hsetup, ?_⟩
  obtain ⟨-, -, -, -, hon | hon, -, -⟩ := Config.params_valid.1 <;> rw [hon] <;> decide

/-- Settles O4: `exec_segSetEnabled` for `false`; the display-off setting has no blink-rate bit by its constraint. -/
theorem segDisableSendsOffPair : Obligations.SegDisableSendsOffPair := by
  unfold Obligations.SegDisableSendsOffPair
  intro s rest hidle
  obtain ⟨hcomplete, hdisplay, hsetup⟩ := exec_segSetEnabled hidle false rest
  obtain ⟨-, -, -, -, -, -, hoff⟩ := Config.params_valid.1
  exact ⟨hcomplete, hdisplay, hsetup, hoff⟩

/-! ### The write port -/

theorem writeEntry_getElem (fb : Vector Byte 16) (index : Nibble) (v : Byte) (j : Fin 16) :
    (writeEntry fb index v)[j] = if j.val = index.toNat then v else fb[j] := by
  simp [writeEntry, Vector.getElem_set, eq_comm]

/-- Settles O8: operands in range pass both checks and the entry is written; any other are rejected. -/
theorem segWriteBufferWritesOneEntry : Obligations.SegWriteBufferWritesOneEntry := by
  unfold Obligations.SegWriteBufferWritesOneEntry
  intro s index value hidle
  refine ⟨fun ⟨hx, hv⟩ => ⟨_, exec_seg_of_returned rfl hidle rfl (run_segWriteBuffer_legal _ _ _ hx hv), ?_⟩,
    fun h => exec_seg_rejected rfl hidle (run_segWriteBuffer_illegal _ _ _ h)⟩
  intro j
  rw [writeEntry_getElem, nibbleField_toNat hx, byteField, BitVec.ofNat_toNat]

end Sys2Proof.Machine
end

section
/-! The other MAT operations (41_matrix.md R91 to R93, R96, R97) and the encodings MAT emits (30_encoding.md R57,
20_memory.md R37 b): row frames, enabling and disabling, one pixel of the grid. -/

namespace Sys2Proof.Machine

/-! ### Row frames -/

theorem refreshRows_eq : refreshRows = (List.finRange 8).map (fun r => BitVec.ofNat 3 r.val) := by decide

theorem rowCommand_fin (p : Params) (r : Fin 8) :
    rowCommand p (BitVec.ofNat 3 r.val) = p.matCmdRowBase + BitVec.ofNat 8 r.val := by
  rw [rowCommand_ofNat, BitVec.toNat_ofNat, Nat.mod_eq_of_lt r.isLt]

theorem readRow_fin (fb : Vector Byte 8) (r : Fin 8) : readRow fb (BitVec.ofNat 3 r.val) = fb[r] := by
  simp only [readRow, BitVec.toNat_ofNat, Nat.mod_eq_of_lt r.isLt]
  rfl

/-- The frames of the eight rows, ascending. -/
theorem refreshRows_frames (p : Params) (fb : Vector Byte 8) :
    refreshRows.map (fun r => Event.busFrame (rowCommand p r) (readRow fb r)) =
      (List.finRange 8).map (fun r => Event.busFrame (p.matCmdRowBase + BitVec.ofNat 8 r.val) fb[r]) := by
  simp only [refreshRows_eq, List.map_map, Function.comp_def, rowCommand_fin, readRow_fin]

/-- Settles O12: the body is the row frames one after another, all answered well or up to the first bad answer. -/
theorem matRefreshSendsEightRows : Obligations.MatRefreshSendsEightRows := by
  unfold Obligations.MatRefreshSendsEightRows
  intro s rest hidle
  rw [← refreshRows_frames]
  exact ⟨fun ha => exec_mat_of_returned rfl hidle ha (run_frames_reliable _ refreshRows 0 _ rest),
    fun k ha => exec_mat_of_raised rfl hidle ha (run_frames_stop _ refreshRows 0 _ k.val k.isLt rest)
      (afterException_matProgramOf ..)⟩

/-- A row is sent as the frame of its command and its byte. -/
theorem run_matRowBody (p : Params) (row : BitVec 3) (k : Nat) (d : MatData) (as : List Answer) :
    run (matRowBody p row) k d as = run [frame (rowCommand p row) (readRow d.fb row)] k d as := by
  match as with
  | [] => rfl
  | .complete :: as => rfl
  | .fail :: as => rfl

/-- A legal row runs as its row frame. -/
theorem run_matRefreshRow_legal {p : Params} {row : Word} {r : Fin 8} (hr : row.toInt = r.val) (k : Nat) (d : MatData)
    (as : List Answer) :
    run (matRefreshRowBody p row) k d as =
      run [frame (p.matCmdRowBase + BitVec.ofNat 8 r.val) d.fb[r]] (k + 1) d as := by
  have hlt := r.isLt
  have hin : inRange 0 7 row = true := inRange_true.mpr (by omega)
  have hfield : rowField row = BitVec.ofNat 3 r.val := by
    rw [← toNat_of_toInt (by omega) hr, rowField, BitVec.ofNat_toNat]
  rw [matRefreshRowBody, hin, run_check_true, run_matRowBody, hfield, rowCommand_fin, readRow_fin]

/-- Settles O13: a legal row passes the check and its frame is run; row 8 and all others are rejected by the check. -/
theorem matRefreshRowStrictBound : Obligations.MatRefreshRowStrictBound := by
  unfold Obligations.MatRefreshRowStrictBound
  intro s row rest hidle
  refine ⟨fun r hr => exec_mat_one_frame rfl hidle (run_matRefreshRow_legal hr 0 _) rest, fun h => ?_⟩
  have hout : inRange 0 7 row = false := inRange_false.mpr (by omega)
  refine exec_mat_of_raised rfl hidle rfl ?_ (afterException_matProgramOf ..)
  rw [matProgramOf, matRefreshRowBody, hout, run_check_false]

/-! ### Enabling and disabling -/

/-- Settles O14: the three frames or the one, run under each answer path; only an end or an exception changes the
lifecycle. -/
theorem matSetEnabledFrames : Obligations.MatSetEnabledFrames := by
  unfold Obligations.MatSetEnabledFrames
  intro s rest hidle
  refine ⟨fun ha => exec_mat_of_returned rfl hidle ha rfl, fun k ha => ?_,
    fun ha => exec_mat_of_returned rfl hidle ha rfl, fun ha => exec_mat_of_raised rfl hidle ha rfl rfl⟩
  match k with
  | 0 => exact exec_mat_of_raised rfl hidle ha rfl rfl
  | 1 => exact exec_mat_of_raised rfl hidle ha rfl rfl
  | 2 => exact exec_mat_of_raised rfl hidle ha rfl rfl

/-! ### One pixel -/

section Grid
variable {x y : Word} (h : pixelInGrid x y = true)
include h

theorem exec_matSetPixel_inGrid (enabled : Bool) (s : State) :
    exec (.matSetPixel x y enabled) s = startMat (.matSetPixel x y enabled)
      (matProgramOf (matSetPixelBody (rowField x) (rowField y) enabled)) s :=
  if_pos h

theorem exec_matGetPixel_inGrid (s : State) :
    exec (.matGetPixel x y) s =
      startMat (.matGetPixel x y) (matProgramOf (matGetPixelBody (rowField x) (rowField y))) s :=
  if_pos h

end Grid

theorem startPixel_outside {op : Instr} {x y : Word} (h : pixelInGrid x y = false) (pr : Program MatData) (s : State) :
    startPixel op x y pr s = .refused .outsidePrecondition :=
  if_neg (by simp [h])

/-- Setting a pixel gives its bit the level and leaves every other bit of the framebuffer. -/
theorem writePixel_bit (fb : Vector Byte 8) (x y : BitVec 3) (enabled : Bool) (x' y' : Fin 8) :
    (writePixel fb x y enabled)[y'].getLsbD (7 - x'.val) =
      if x'.val = x.toNat ∧ y'.val = y.toNat then enabled else fb[y'].getLsbD (7 - x'.val) := by
  rw [← readRow_fin, ← readRow_fin, writePixel, readRow_writeRow]
  by_cases hy : y'.val = y.toNat
  · have hrow : BitVec.ofNat 3 y'.val = y := by rw [hy]; simp
    rw [if_pos hrow, withMask_pixMask, hrow]
    simp [hy]
  · have hrow : BitVec.ofNat 3 y'.val ≠ y := by
      intro he
      apply hy
      rw [← he, BitVec.toNat_ofNat, Nat.mod_eq_of_lt y'.isLt]
    rw [if_neg hrow]
    simp [hy]

/-- Settles O17: inside the grid the pixel is written (`writePixel_bit`); outside it the request is refused first. -/
theorem matSetPixelChangesOnePixel : Obligations.MatSetPixelChangesOnePixel := by
  unfold Obligations.MatSetPixelChangesOnePixel
  intro s x y enabled
  refine ⟨fun hidle hin => ?_, fun hout => startPixel_outside (pixelInGrid_false.mpr hout) _ s⟩
  have hgrid := pixelInGrid_true.mpr hin
  obtain ⟨hx, hy⟩ := toNat_of_pixelInGrid hgrid
  refine ⟨writePixel s.mat.data.fb (rowField x) (rowField y) enabled,
    exec_mat_of_returned (exec_matSetPixel_inGrid hgrid enabled s) hidle rfl rfl, fun x' y' => ?_⟩
  rw [writePixel_bit, rowField_toNat hx, rowField_toNat hy]

/-- Settles O18: inside the grid the pixel's bit is returned (`readPixel_bit`); outside it the request is refused
first. -/
theorem matGetPixelReadsOnePixel : Obligations.MatGetPixelReadsOnePixel := by
  unfold Obligations.MatGetPixelReadsOnePixel
  intro s x y
  refine ⟨fun x' y' hidle hx hy => ?_, fun hout => startPixel_outside (pixelInGrid_false.mpr hout) _ s⟩
  have hx' := x'.isLt
  have hy' := y'.isLt
  have hgrid : pixelInGrid x y = true := pixelInGrid_true.mpr (by omega)
  have hxn : x.toNat = x'.val := toNat_of_toInt (by omega) hx
  have hyn : rowField y = BitVec.ofNat 3 y'.val := by
    rw [← toNat_of_toInt (by omega) hy, rowField, BitVec.ofNat_toNat]
  have hbit : readPixel s.mat.data.fb (rowField x) (rowField y) = s.mat.data.fb[y'].getLsbD (7 - x'.val) := by
    rw [readPixel_bit, rowField_toNat (by omega), hxn, hyn, readRow_fin]
  rw [← hbit]
  exact exec_mat_of_returned (exec_matGetPixel_inGrid hgrid s) hidle rfl rfl

/-! ### The encodings MAT emits -/

/-- Settles O20: each row's body is one frame, of the command and data byte listed. -/
theorem matEmittedFrames : Obligations.MatEmittedFrames := by
  unfold Obligations.MatEmittedFrames
  intro s rest hidle ha
  have sent : ∀ {i : Instr} {cmd data : Byte},
      exec i s = startMat i (matProgramOf [frame cmd data]) s →
      exec i s = .next (s.matEnds s.mat.data [.busFrame cmd data] rest .ok false) :=
    fun he => (exec_mat_one_frame (k := 0) he hidle (fun _ => rfl) rest).1 ha
  refine ⟨fun row => ?_, sent rfl, sent rfl, sent rfl, sent rfl, fun level _ => sent rfl, sent rfl, sent rfl⟩
  rw [← rowCommand_ofNat]
  exact (exec_mat_one_frame rfl hidle (run_matRowBody _ row 0 _) rest).1 ha

end Sys2Proof.Machine
end

section
/-! The LCD operations on a reliable environment and up to their first bad answer (42_lcd.md R110 to R116): those that
make nothing but pin writes, and the initialization. -/

namespace Sys2Proof.Machine

/-! ### An operation of idle LCD that ends -/

section Ends
variable {i : Instr} {pr : Program LcdData} {s : State} {as : List Answer} {d : LcdData} {es : List Event}
  {rest : List Answer}

/-- An operation whose run returns ends LCD with `OK` and the value returned. -/
theorem exec_lcd_of_returned {v : Bool} (hp : lcdProgram Config.params i = some pr) (hi : s.lcd.isIdle = true)
    (ha : s.lcd.port.answers = as)
    (hr : run pr.body 0 s.lcd.data as = { data := d, events := es, answers := rest, stop := .returned v }) :
    exec i s = .next (s.lcdEnds d es rest .ok v) := by
  rw [exec_lcd_idle hp hi ha, hr, settle_returned]
  rfl

/-- An operation whose run raises an exception ends LCD with its status, and the registers as the exception leaves
them. -/
theorem exec_lcd_of_raised {st : Status} {d' : LcdData} (hp : lcdProgram Config.params i = some pr)
    (hi : s.lcd.isIdle = true) (ha : s.lcd.port.answers = as)
    (hr : run pr.body 0 s.lcd.data as = { data := d, events := es, answers := rest, stop := .raised st })
    (hd : afterException pr.onException st d = d') : exec i s = .next (s.lcdEnds d' es rest st false) := by
  rw [exec_lcd_idle hp hi ha, hr, settle_raised, hd]
  rfl

end Ends

/-- A bad answer inside an LCD operation makes the lifecycle unknown (60_exceptions.md R148). -/
theorem afterException_lcdProgramOf (body : List (Stmt LcdData)) (e : Event) (d : LcdData) :
    afterException (lcdProgramOf body).onException (failStatus e) d = { d with life := .unknown } := by
  cases e <;> rfl

/-! ### Operations that make nothing but pin writes -/

section Pins
variable {i : Instr} {ws : List (BitVec 3 × Bool)} {s : State} {rest : List Answer}
  (hw : pinWritesOf Config.params i = some ws) (hi : s.lcd.isIdle = true)
include hw hi

/-- With good answers all pin writes are made. -/
theorem exec_pins_complete (ha : s.lcd.port.answers = reliable (2 * ws.length) ++ rest) :
    exec i s =
      .next (s.lcdEnds (pinData s.lcd.data ws) (pinEvents Config.params s.lcd.data.latch ws) rest .ok false) := by
  refine exec_lcd_of_returned (lcdProgram_pins hw) hi ha ?_
  simpa [lcdProgramOf] using run_pins_reliable Config.params ws [] 0 s.lcd.data rest

/-- At the first bad answer the pin writes end. -/
theorem exec_pins_stop {k : Nat} (hk : k < 2 * ws.length) (ha : s.lcd.port.answers = reliable k ++ .fail :: rest) :
    exec i s = .next (s.lcdEnds
      { latch := latchAfter s.lcd.data.latch (ws.take (k / 2 + 1)),
        dev := if k % 2 = 0 then none else some (latchAfter s.lcd.data.latch (ws.take (k / 2 + 1))), life := .unknown }
      ((pinEvents Config.params s.lcd.data.latch ws).take (k + 1)) rest
      (if k % 2 = 0 then .transportFailure else .interrupted) false) := by
  refine exec_lcd_of_raised (lcdProgram_pins hw) hi ha
    (by simpa [lcdProgramOf] using run_pins_stop Config.params ws [] 0 s.lcd.data k hk rest) ?_
  split <;> rfl

end Pins

/-- Settles O28: with good answers the run of the pin writes goes to its end (`run_pins_reliable`). -/
theorem lcdPinOperationsComplete : Obligations.LcdPinOperationsComplete := by
  unfold Obligations.LcdPinOperationsComplete
  exact fun i writes s rest hw hidle ha => exec_pins_complete hw hidle ha

/-- Settles O29: the run of the pin writes ends at the first bad answer (`run_pins_stop`). -/
theorem lcdPinOperationsStopAtBadAnswer : Obligations.LcdPinOperationsStopAtBadAnswer := by
  unfold Obligations.LcdPinOperationsStopAtBadAnswer
  exact fun i writes s k rest hw hidle hk ha => exec_pins_stop hw hidle hk ha

/-- Settles O22: the one pin write under each answer path; its bits fix the new latch (`eq_withPin`). -/
theorem lcdSetPinWritesThenWaits : Obligations.LcdSetPinWritesThenWaits := by
  unfold Obligations.LcdSetPinWritesThenWaits
  intro s pin level rest latch hidle hbits
  obtain rfl := eq_withPin hbits
  have hw : pinWritesOf Config.params (.lcdSetPin pin level) = some [(pin, level)] := rfl
  exact ⟨exec_pins_complete hw hidle, exec_pins_stop (k := 0) hw hidle (by simp),
    exec_pins_stop (k := 1) hw hidle (by simp)⟩

theorem withMask_getElem (v mask : Byte) (level : Bool) (i : Nat) (hi : i < 8) :
    (withMask v mask level)[i] = if mask[i] then level else v[i] := by
  cases level <;> cases hm : mask[i] <;> simp [withMask, hm]

/-- Of two settings of the same masked bits the last counts. -/
theorem withMask_withMask (v mask : Byte) (a b : Bool) :
    withMask (withMask v mask a) mask b = withMask v mask b := by
  ext i hi
  simp only [withMask_getElem]
  split <;> rfl

@[simp] theorem withPin_withPin (latch : Byte) (q : BitVec 3) (a b : Bool) :
    withPin (withPin latch q a) q b = withPin latch q b :=
  withMask_withMask latch (pinMask q) a b

/-- Settles O23: the three pin writes of the pulse are of the same pin, so each latch value is that of its own write. -/
theorem lcdPulseIsLowHighLow : Obligations.LcdPulseIsLowHighLow := by
  unfold Obligations.LcdPulseIsLowHighLow
  intro s rest hidle ha
  have hx := exec_pins_complete (i := .lcdPulseEnable) rfl hidle ha
  simp only [pinData, pulsePins, latchAfter_cons, latchAfter_nil, pinEvents_cons, pinEvents_nil, withPin_withPin] at hx
  exact hx

/-- The fifteen pin writes of a byte transfer, bit by bit of the byte. -/
theorem write8Pins_bits (p : Params) (byte : Byte) (mode : Bool) :
    write8Pins p byte mode =
      [(p.lcdPinRs, mode),
       (p.lcdPinD0, byte.getLsbD 4), (p.lcdPinD1, byte.getLsbD 5), (p.lcdPinD2, byte.getLsbD 6),
       (p.lcdPinD3, byte.getLsbD 7),
       (p.lcdPinEn, false), (p.lcdPinEn, true), (p.lcdPinEn, false),
       (p.lcdPinD0, byte.getLsbD 0), (p.lcdPinD1, byte.getLsbD 1), (p.lcdPinD2, byte.getLsbD 2),
       (p.lcdPinD3, byte.getLsbD 3),
       (p.lcdPinEn, false), (p.lcdPinEn, true), (p.lcdPinEn, false)] := by
  simp [write8Pins, nibblePins, pulsePins, hiNibble, loNibble]

@[simp] theorem write8Pins_length (p : Params) (byte : Byte) (mode : Bool) :
    (write8Pins p byte mode).length = 15 := rfl

/-- Settles O24: `LCD.write8` is its fifteen pin writes, all answered well. -/
theorem lcdWrite8FifteenWrites : Obligations.LcdWrite8FifteenWrites := by
  unfold Obligations.LcdWrite8FifteenWrites
  intro s byte mode rest hidle ha
  have hx := exec_pins_complete (i := .lcdWrite8 byte mode) rfl hidle ha
  rw [write8Pins_bits] at hx
  exact hx

/-- An operation that has ended leaves its unit as any other operation with the same program does. -/
theorem launch_congr_of_idle {D : Type} {u : Driver D} {op op' : Instr} {pr : Program D}
    (h : (u.launch op pr).isIdle = true) : u.launch op' pr = u.launch op pr := by
  unfold Driver.launch at h ⊢
  generalize run pr.body 0 u.data u.port.answers = g at h ⊢
  obtain ⟨d, es, as, stop⟩ := g
  cases stop with
  | returned v => rfl
  | raised st => rfl
  | waiting k => cases h

/-- Settles O25: the two operations have the same program, so they differ only while one of them waits. -/
theorem lcdCommandIsWrite8InCommandMode : Obligations.LcdCommandIsWrite8InCommandMode := by
  unfold Obligations.LcdCommandIsWrite8InCommandMode
  refine ⟨fun s t byte h hidle => ?_, fun s byte rest hidle ha => ?_⟩
  · obtain ⟨hs, rfl⟩ := startLcd_next.mp h
    exact startLcd_next.mpr ⟨hs, by rw [← launch_congr_of_idle hidle]; rfl⟩
  · exact ⟨_, exec_pins_complete (i := .lcdCommand byte) rfl hidle ha, rfl, rfl⟩

/-- Settles O30: the latch write and the direction write are one call each; a logical command is the pin writes of its
byte in command mode. -/
theorem lcdEmittedWrites : Obligations.LcdEmittedWrites := by
  unfold Obligations.LcdEmittedWrites
  intro s rest hidle
  exact ⟨fun ha => ⟨exec_lcd_of_returned rfl hidle ha rfl, exec_lcd_of_returned rfl hidle ha rfl⟩,
    fun byte ha => exec_pins_complete (i := .lcdLogicalCommand byte) rfl hidle ha⟩

/-! ### The initialization on a reliable environment -/

theorem reliable_succ (n : Nat) : reliable (n + 1) = .complete :: reliable n := rfl

theorem reliable_add (m n : Nat) : reliable (m + n) = reliable m ++ reliable n :=
  (List.replicate_append_replicate ..).symm

/-- The registers after a whole initialization. -/
def initData (p : Params) (d : LcdData) : LcdData :=
  { pinData (pinData d (initPins p)) (homePins p) with life := .ready }

theorem run_init_reliable (p : Params) (d : LcdData) (as : List Answer) :
    run (lcdInitBody p) 0 d (reliable 215 ++ as) =
      { data := initData p d, events := initEvents p d.latch, answers := as, stop := .returned false } := by
  have hanswers : reliable 215 ++ as = .complete :: (reliable (2 * (initPins p).length) ++
      .complete :: (reliable (2 * (homePins p).length) ++ .complete :: as)) := by
    simp only [initPins_length, homePins_length]
    rfl
  rw [hanswers, lcdInitBody_eq, plainCall, run_call_complete, run_pins_reliable, delayCall, plainCall,
    run_call_complete, run_pins_reliable, run_call_complete, run_assign, run_nil]
  simp [Progress.emit, initEvents, initData]

/-- Settles O26: the run of the whole body on good answers. -/
theorem lcdInitRunsWholeSequence : Obligations.LcdInitRunsWholeSequence := by
  unfold Obligations.LcdInitRunsWholeSequence
  intro s rest hidle ha
  exact exec_lcd_of_returned rfl hidle ha (run_init_reliable _ _ _)

/-! ### The initialization up to its first bad answer -/

/-- The registers when the call of event `e`, the last of `sent`, is answered badly: the last latch value sent, which
the device has too unless `e` is a transaction. -/
def afterBadAnswer (p : Params) (d : LcdData) (sent : List Event) (e : Event) : LcdData :=
  { d with
    latch := (latchValues p sent).getLastD d.latch
    dev := if isTransaction e then none else some ((latchValues p sent).getLastD d.latch) }

/-- Statements that, from registers `d` on, are pin writes and delays, and put out the events `all`; a delay on its own
stands only where latch and device agree. -/
inductive PinsAndDelays (p : Params) : LcdData → List (Stmt LcdData) → List Event → Prop where
  | done (d : LcdData) (f : LcdData → LcdData) : PinsAndDelays p d [.assign f] []
  | pin {d : LcdData} (w : BitVec 3 × Bool) {body : List (Stmt LcdData)} {all : List Event} :
      PinsAndDelays p { d with latch := withPin d.latch w.1 w.2, dev := some (withPin d.latch w.1 w.2) } body all →
      PinsAndDelays p d (setPinStmts p w ++ body)
        (.busReg p.lcdRegLatch (withPin d.latch w.1 w.2) :: .delay .pulse :: all)
  | delay {d : LcdData} (kind : DelayKind) {body : List (Stmt LcdData)} {all : List Event}
      (hd : d.dev = some d.latch) :
      PinsAndDelays p d body all → PinsAndDelays p d (delayCall kind :: body) (.delay kind :: all)

section BadAnswer
variable {p : Params} {d : LcdData} {body : List (Stmt LcdData)} {all : List Event}

@[simp] theorem latchValues_latch (v : Byte) (es : List Event) :
    latchValues p (.busReg p.lcdRegLatch v :: es) = v :: latchValues p es := by
  simp [latchValues]

@[simp] theorem latchValues_delay (kind : DelayKind) (es : List Event) :
    latchValues p (.delay kind :: es) = latchValues p es := rfl

theorem latchValues_direction (hp : p.Valid) (es : List Event) :
    latchValues p (.busReg p.lcdRegDirection p.lcdDirAllOutput :: es) = latchValues p es := by
  have hreg : p.lcdRegDirection ≠ p.lcdRegLatch := hp.2.2.1
  simp [latchValues, hreg]

theorem afterBadAnswer_nil (e : Event) :
    afterBadAnswer p d [] e = { d with dev := if isTransaction e then none else some d.latch } := rfl

theorem afterBadAnswer_delay (kind : DelayKind) (sent : List Event) (e : Event) :
    afterBadAnswer p d (.delay kind :: sent) e = afterBadAnswer p d sent e := rfl

/-- What a bad answer leaves behind after a latch write is reckoned from the value written. -/
theorem afterBadAnswer_latch (v : Byte) (sent : List Event) (e : Event) :
    afterBadAnswer p d (.busReg p.lcdRegLatch v :: sent) e =
      afterBadAnswer p { d with latch := v, dev := some v } sent e := by
  simp only [afterBadAnswer, latchValues_latch, List.getLastD_cons]

theorem PinsAndDelays.pins (ws : List (BitVec 3 × Bool)) (h : PinsAndDelays p (pinData d ws) body all) :
    PinsAndDelays p d (pinStmts p ws ++ body) (pinEvents p d.latch ws ++ all) := by
  induction ws generalizing d with
  | nil => exact h
  | cons w ws ih =>
    rw [← pinData_cons] at h
    rw [pinStmts_cons, List.append_assoc]
    exact .pin w (ih h)

theorem pinData_dev {ws : List (BitVec 3 × Bool)} (h : ws ≠ []) : (pinData d ws).dev = some (pinData d ws).latch :=
  if_neg h

/-- The first bad answer, to the call of event `e`, ends pin writes and delays there. -/
theorem PinsAndDelays.run_badAnswer (h : PinsAndDelays p d body all) {k : Nat} {e : Event} (he : all[k]? = some e)
    (j : Nat) (as : List Answer) :
    run body j d (reliable k ++ .fail :: as) =
      { data := afterBadAnswer p d (all.take (k + 1)) e, events := all.take (k + 1), answers := as,
        stop := .raised (failStatus e) } := by
  induction h generalizing k j with
  | done d f => cases he
  | pin w _ ih =>
    match k with
    | 0 => cases he; rw [List.take_succ_cons, List.take_zero, afterBadAnswer_latch]; rfl
    | 1 =>
      cases he
      rw [List.take_succ_cons, List.take_succ_cons, List.take_zero, afterBadAnswer_latch, afterBadAnswer_delay]
      rfl
    | k + 2 =>
      rw [List.take_succ_cons, List.take_succ_cons, afterBadAnswer_latch, afterBadAnswer_delay]
      simp only [reliable_succ, setPinStmts, latchWrite, delayCall, plainCall, List.cons_append, List.nil_append,
        run_assign, run_call_complete, ih he]
      rfl
  | delay kind hd _ ih =>
    match k with
    | 0 =>
      cases he
      rw [List.take_succ_cons, List.take_zero, afterBadAnswer_delay, afterBadAnswer_nil, isTransaction,
        if_neg (by simp), ← hd]
      rfl
    | k + 1 =>
      rw [List.take_succ_cons, afterBadAnswer_delay]
      simp only [reliable_succ, delayCall, plainCall, List.cons_append, run_call_complete, ih he]
      rfl

/-- The first bad answer, to the call of event `e`, ends the initialization there. -/
theorem run_init_badAnswer (hp : p.Valid) {k : Nat} {e : Event} (he : (initEvents p d.latch)[k + 1]? = some e)
    (as : List Answer) :
    run (lcdInitBody p) 0 d (reliable (k + 1) ++ .fail :: as) =
      { data := afterBadAnswer p d ((initEvents p d.latch).take (k + 2)) e,
        events := (initEvents p d.latch).take (k + 2), answers := as, stop := .raised (failStatus e) } := by
  have hhome : ∀ d', PinsAndDelays p d' (pinStmts p (homePins p) ++
      (delayCall .settle :: [.assign (fun d => { d with life := .ready })])) _ := fun d' =>
    .pins (homePins p) (.delay .settle (pinData_dev (by simp [homePins, write8Pins])) (.done _ _))
  have hbody := PinsAndDelays.pins (initPins p)
    (.delay .settle (pinData_dev (d := d) (by simp [initPins])) (hhome _))
  have hevents : initEvents p d.latch = .busReg p.lcdRegDirection p.lcdDirAllOutput ::
      (pinEvents p d.latch (initPins p) ++
        .delay .settle :: (pinEvents p (pinData d (initPins p)).latch (homePins p) ++ [.delay .settle])) := by
    simp [initEvents]
  rw [hevents] at he ⊢
  rw [lcdInitBody_eq, reliable_succ, List.cons_append, plainCall, run_call_complete, hbody.run_badAnswer he]
  simp [Progress.emit, afterBadAnswer, latchValues_direction hp]

/-- The last latch value up to a latch write is the one it writes. -/
theorem latchValues_take_of_latch {es : List Event} {k : Nat} {v : Byte} (h : es[k]? = some (.busReg p.lcdRegLatch v))
    (latch : Byte) : (latchValues p (es.take (k + 1))).getLastD latch = v := by
  rw [List.take_add_one, h, Option.toList_some, latchValues_append, latchValues_latch]
  exact List.getLastD_concat ..

end BadAnswer

/-- The first bad answer ends `LCD.init` with the events up to that call and the lifecycle unknown. -/
theorem exec_init_badAnswer {s : State} {k : Nat} {e : Event} {rest : List Answer} (hi : s.lcd.isIdle = true)
    (ha : s.lcd.port.answers = reliable (k + 1) ++ .fail :: rest)
    (he : (initEvents Config.params s.lcd.data.latch)[k + 1]? = some e) :
    exec .lcdInit s = .next (s.lcdEnds
      { afterBadAnswer Config.params s.lcd.data ((initEvents Config.params s.lcd.data.latch).take (k + 2)) e with
        life := .unknown }
      ((initEvents Config.params s.lcd.data.latch).take (k + 2)) rest (failStatus e) false) :=
  exec_lcd_of_raised rfl hi ha (run_init_badAnswer Config.params_valid he rest) (afterException_lcdProgramOf ..)

/-- Settles O27: the direction write is the first call; every later bad answer is `exec_init_badAnswer`, where the last
latch value sent is the one of a failed latch write itself. -/
theorem lcdInitStopsAtFailedDirection : Obligations.LcdInitStopsAtFailedDirection := by
  unfold Obligations.LcdInitStopsAtFailedDirection
  intro s k rest hidle ha
  have hreg : Config.params.lcdRegDirection ≠ Config.params.lcdRegLatch := Config.params_valid.2.2.1
  refine ⟨initEvents_length .., fun hk => ?_, fun v he => ?_, fun kind he => ?_⟩
  · subst hk
    exact exec_lcd_of_raised rfl hidle ha rfl rfl
  · match k with
    | 0 => exact absurd (Event.busReg.inj (Option.some.inj he)).1 hreg
    | k + 1 =>
      have hx := exec_init_badAnswer hidle ha he
      rw [afterBadAnswer, latchValues_take_of_latch he] at hx
      exact hx
  · match k with
    | 0 => cases he
    | k + 1 => exact exec_init_badAnswer hidle ha he

end Sys2Proof.Machine
end

section
/-! What the display is strobed (42_lcd.md R113, R115 to R117, 95_test_vectors.md sections 2.3 and 3.4), and which bits
of the latch LCD operations move (R117 b, e; 10_state.md R12). -/

namespace Sys2Proof.Machine

variable {p : Params}

/-! ### Byte transfers -/

/-- The pin writes of bytes sent one after another in one mode. -/
def bytesPins (p : Params) (mode : Bool) (bytes : List Byte) : List (BitVec 3 × Bool) :=
  bytes.flatMap (fun b => write8Pins p b mode)

@[simp] theorem bytesPins_length (mode : Bool) (bytes : List Byte) :
    (bytesPins p mode bytes).length = 15 * bytes.length := by
  simp [bytesPins, Nat.mul_comm]

/-- With enable low before, bytes strobe their halves and leave enable low. -/
theorem strobed_bytesPins (hp : p.Valid) (mode : Bool) (bytes : List Byte) (latch : Byte)
    (hl : pinLevel latch p.lcdPinEn = false) :
    strobed p (latchSequence latch (bytesPins p mode bytes)) = bytes.flatMap (halves mode) ∧
      pinLevel (latchAfter latch (bytesPins p mode bytes)) p.lcdPinEn = false := by
  have h := strobed_write8s hp (bytes.map (·, mode)) latch hl
  rwa [List.flatMap_map, List.flatMap_map] at h

/-- Bytes leave the backlight. -/
theorem bytesPins_backlight (hp : p.Valid) (mode : Bool) (bytes : List Byte) (latch : Byte) :
    pinLevel (latchAfter latch (bytesPins p mode bytes)) p.lcdPinBacklight = pinLevel latch p.lcdPinBacklight := by
  induction bytes generalizing latch with
  | nil => rfl
  | cons b bytes ih =>
    rw [bytesPins, List.flatMap_cons, latchAfter_append, ← bytesPins, ih, write8_backlight hp]

/-- Settles O31: the latch values of the transfer strobe the two halves of its byte (`strobed_write8`). -/
theorem lcdTransferRecoversByte : Obligations.LcdTransferRecoversByte := by
  unfold Obligations.LcdTransferRecoversByte
  intro s byte mode rest hidle hlow ha
  refine ⟨_, _, exec_pins_complete (i := .lcdWrite8 byte mode) rfl hidle ha, rfl, ?_, write8_enable_low ..⟩
  rw [latchValues_pinEvents, strobed_write8 Config.params_valid _ hlow]

/-- Settles O32: a message is the pin writes of its characters, an induction over them (`strobed_bytesPins`). -/
theorem lcdMessageTransmitsText : Obligations.LcdMessageTransmitsText := by
  unfold Obligations.LcdMessageTransmitsText
  intro s text rest hidle hlow ha
  have hw : pinWritesOf Config.params (.lcdMessage text) = some (bytesPins Config.params true text) := rfl
  have ha' : s.lcd.port.answers = reliable (2 * (bytesPins Config.params true text).length) ++ rest := by
    rw [ha, bytesPins_length, ← Nat.mul_assoc]
  obtain ⟨hsent, hafter⟩ := strobed_bytesPins Config.params_valid true text _ hlow
  refine ⟨_, _, exec_pins_complete hw hidle ha', rfl, ?_, hafter⟩
  rw [latchValues_pinEvents, hsent]

/-! ### The initialization -/

/-- The seven bytes of the initialization (42_lcd.md R115). -/
def initBytes (p : Params) : List Byte :=
  [p.lcdWake1, p.lcdWake2, p.initDisplayControl, p.initFunctionSet, p.initEntryMode, p.lcdCmdClearDisplay,
    p.lcdCmdReturnHome]

/-- The pin writes of the initialization: the backlight, then the seven bytes in command mode. -/
theorem initPins_homePins (p : Params) :
    initPins p ++ homePins p = (p.lcdPinBacklight, true) :: bytesPins p false (initBytes p) := by
  simp [initPins, homePins, bytesPins, initBytes]

/-- The latch values of the initialization are those of its pin writes. -/
theorem latchValues_initEvents (hp : p.Valid) (latch : Byte) :
    latchValues p (initEvents p latch) = latchSequence latch (initPins p ++ homePins p) := by
  simp only [initEvents, latchValues_append, latchValues_pinEvents, latchValues_direction hp, latchValues_delay,
    latchSequence_append]
  simp [latchValues]

theorem initData_latch (d : LcdData) : (initData p d).latch = latchAfter d.latch (initPins p ++ homePins p) := by
  rw [latchAfter_append]
  rfl

/-- While enable is low the display is strobed nothing. -/
theorem strobed_cons_low {v : Byte} (h : pinLevel v p.lcdPinEn = false) (vs : List Byte) :
    strobed p (v :: vs) = strobed p vs := by
  simp [strobed, h]

/-- Settles O33: turning the backlight on strobes nothing, and the seven bytes strobe their halves and leave it on. -/
theorem lcdInitTransmitsSequence : Obligations.LcdInitTransmitsSequence := by
  unfold Obligations.LcdInitTransmitsSequence
  intro s rest hidle hlow ha
  have hp := Config.params_valid
  obtain ⟨-, -, -, -, -, -, -, -, -, -, hne, -⟩ := pins_ne hp
  have hlow' : pinLevel (withPin s.lcd.data.latch Config.params.lcdPinBacklight true) Config.params.lcdPinEn =
      false := by
    rw [pinLevel_withPin, if_neg hne.symm]
    exact hlow
  obtain ⟨hsent, hafter⟩ := strobed_bytesPins hp false (initBytes Config.params) _ hlow'
  refine ⟨_, _, exec_lcd_of_returned rfl hidle ha (run_init_reliable _ _ _), rfl, ?_, ?_, ?_⟩
  · rw [latchValues_initEvents hp, initPins_homePins, latchSequence_cons]
    exact (strobed_cons_low hlow' _).trans hsent
  · simpa only [enableLow, lcdEnds_lcd, finished_data, initData_latch, initPins_homePins, latchAfter_cons] using hafter
  · simp [initData_latch, initPins_homePins, bytesPins_backlight hp]

/-! ### One bit at a time -/

theorem oneBitSteps_latchSequence (latch : Byte) (ws : List (BitVec 3 × Bool)) :
    OneBitSteps (latch :: latchSequence latch ws) := by
  induction ws generalizing latch with
  | nil => exact .singleton _
  | cons w ws ih => exact .cons_cons (withPin_one_bit latch w.1 w.2) (ih _)

theorem latchValues_mono {es es' : List Event} (h : es <+: es') : latchValues p es <+: latchValues p es' := by
  obtain ⟨rest, rfl⟩ := h
  exact ⟨latchValues p rest, (latchValues_append ..).symm⟩

/-- On a reliable bus the latch values of every LCD operation move one bit at a time. -/
theorem lcdProgram_oneBitSteps {i : Instr} {pr : Program LcdData} (h : lcdProgram Config.params i = some pr)
    (d : LcdData) : ∃ n, callCount pr.body ≤ n ∧
      OneBitSteps (d.latch :: latchValues Config.params (run pr.body 0 d (reliable n)).events) := by
  cases hw : pinWritesOf Config.params i with
  | some ws =>
    rw [lcdProgram_pins hw] at h
    cases h
    refine ⟨2 * ws.length + callCount (pinStmts Config.params ws), Nat.le_add_left .., ?_⟩
    have hr := run_pins_reliable Config.params ws [] 0 d (reliable (callCount (pinStmts Config.params ws)))
    rw [List.append_nil, ← reliable_add] at hr
    simpa [lcdProgramOf, hr] using oneBitSteps_latchSequence d.latch ws
  | none =>
    obtain rfl | rfl | rfl := lcd_without_pinWrites h hw
    · cases h
      refine ⟨215 + callCount (lcdInitBody Config.params), Nat.le_add_left .., ?_⟩
      rw [reliable_add, lcdProgramOf, run_init_reliable, latchValues_initEvents Config.params_valid]
      exact oneBitSteps_latchSequence d.latch _
    · cases h
      refine ⟨1, le_rfl, ?_⟩
      have hr : (run (lcdLatchBody Config.params) 0 d (reliable 1)).events =
        [.busReg Config.params.lcdRegLatch d.latch] := rfl
      rw [lcdProgramOf, hr, latchValues_latch]
      exact .cons_cons (.inl rfl) (.singleton _)
    · cases h
      refine ⟨1, le_rfl, ?_⟩
      have hr : (run (lcdDirectionBody Config.params) 0 d (reliable 1)).events =
        [.busReg Config.params.lcdRegDirection Config.params.lcdDirAllOutput] := rfl
      rw [lcdProgramOf, hr, latchValues_direction Config.params_valid]
      exact .singleton _

/-- Settles O34: under any answers the latch values are the first of those on a reliable bus (`run_reliable`), where
each pin write moves one bit. -/
theorem lcdLatchMovesOneBitAtATime : Obligations.LcdLatchMovesOneBitAtATime := by
  unfold Obligations.LcdLatchMovesOneBitAtATime
  intro i s t es hu h htrace
  obtain ⟨hu', -⟩ | ⟨hu', -⟩ | ⟨-, -, pr, hp, rfl⟩ := exec_next_cases h
  · simp [hu] at hu'
  · simp [hu] at hu'
  obtain rfl : (run pr.body 0 s.lcd.data s.lcd.port.answers).events = es := by
    simpa [Driver.launch, settle_trace] using htrace
  obtain ⟨n, hn, hsteps⟩ := lcdProgram_oneBitSteps hp s.lcd.data
  obtain ⟨-, hfirst⟩ := run_reliable pr.body 0 s.lcd.data s.lcd.port.answers n hn
  obtain ⟨rest, hrest⟩ := latchValues_mono hfirst
  rw [← hrest, ← List.cons_append] at hsteps
  exact hsteps.left_of_append

/-! ### Pins an operation leaves alone -/

/-- The pins of a byte transfer. -/
def transferPins (p : Params) : List (BitVec 3) :=
  [p.lcdPinRs, p.lcdPinEn, p.lcdPinD0, p.lcdPinD1, p.lcdPinD2, p.lcdPinD3]

theorem pins_eq (p : Params) : p.pins = transferPins p ++ [p.lcdPinBacklight] := rfl

theorem backlight_not_mem_transferPins (hp : p.Valid) : p.lcdPinBacklight ∉ transferPins p := by
  have hnodup : p.pins.Nodup := hp.2.2.2.1
  rw [pins_eq] at hnodup
  exact fun h => List.disjoint_of_nodup_append hnodup h List.mem_cons_self

theorem unusedPin_not_mem_pins {q : BitVec 3} (h : p.unusedPin = some q) : q ∉ p.pins := by
  simpa using List.find?_some h

theorem write8Pins_mem {byte : Byte} {mode : Bool} {w : BitVec 3 × Bool} (h : w ∈ write8Pins p byte mode) :
    w.1 ∈ transferPins p := by
  rw [write8Pins_bits] at h
  simp only [List.mem_cons, List.not_mem_nil, or_false] at h
  simp only [transferPins, List.mem_cons, List.not_mem_nil, or_false]
  rcases h with rfl | rfl | rfl | rfl | rfl | rfl | rfl | rfl | rfl | rfl | rfl | rfl | rfl | rfl | rfl <;> simp

/-- But for `LCD.setPin`, the pin writes of an operation are on the pins of a byte transfer. -/
theorem pinWritesOf_mem {i : Instr} {ws : List (BitVec 3 × Bool)} (h : pinWritesOf p i = some ws)
    (hi : ∀ pin level, i ≠ .lcdSetPin pin level) {w : BitVec 3 × Bool} (hw : w ∈ ws) : w.1 ∈ transferPins p := by
  cases i with
  | lcdSetPin pin level => exact absurd rfl (hi pin level)
  | lcdPulseEnable =>
    cases h
    simp only [pulsePins, List.mem_cons, List.not_mem_nil, or_false] at hw
    rcases hw with rfl | rfl | rfl <;> simp [transferPins]
  | lcdWrite8 byte mode => cases h; exact write8Pins_mem hw
  | lcdMessage text =>
    cases h
    obtain ⟨c, -, hc⟩ := List.mem_flatMap.mp hw
    exact write8Pins_mem hc
  | lcdCommand byte => cases h; exact write8Pins_mem hw
  | lcdLogicalCommand byte => cases h; exact write8Pins_mem hw
  | _ => cases h

theorem initPins_homePins_mem {w : BitVec 3 × Bool} (h : w ∈ initPins p ++ homePins p) : w.1 ∈ p.pins := by
  rw [initPins_homePins, List.mem_cons] at h
  obtain rfl | h := h
  · simp [pins_eq]
  · obtain ⟨b, -, hb⟩ := List.mem_flatMap.mp h
    rw [pins_eq]
    exact List.mem_append_left _ (write8Pins_mem hb)

/-! ### What the assignments of a body keep -/

section Keeps
variable {D : Type} {P : D → Prop} {body rest : List (Stmt D)}

/-- Every assignment and every answer of the body keeps `P`. -/
def BodyKeeps (P : D → Prop) (body : List (Stmt D)) : Prop :=
  ∀ q ∈ body, match q with
    | .assign f => ∀ d, P d → P (f d)
    | .check _ => True
    | .ret _ => True
    | .call _ an => ∀ a d, P d → P (an a d)

@[simp] theorem bodyKeeps_nil : BodyKeeps P [] := by
  simp [BodyKeeps]
@[simp] theorem bodyKeeps_assign (f : D → D) :
    BodyKeeps P (.assign f :: rest) ↔ (∀ d, P d → P (f d)) ∧ BodyKeeps P rest := by
  simp [BodyKeeps]
@[simp] theorem bodyKeeps_check (ok : Bool) : BodyKeeps P (.check ok :: rest) ↔ BodyKeeps P rest := by
  simp [BodyKeeps]
@[simp] theorem bodyKeeps_ret (v : D → Bool) : BodyKeeps P (.ret v :: rest) ↔ BodyKeeps P rest := by
  simp [BodyKeeps]
@[simp] theorem bodyKeeps_call (ev : D → Event) (an : Answer → D → D) :
    BodyKeeps P (.call ev an :: rest) ↔ (∀ a d, P d → P (an a d)) ∧ BodyKeeps P rest := by
  simp [BodyKeeps]
@[simp] theorem bodyKeeps_plainCall (ev : D → Event) : BodyKeeps P (plainCall ev :: rest) ↔ BodyKeeps P rest := by
  simp [plainCall]
@[simp] theorem bodyKeeps_append : BodyKeeps P (body ++ rest) ↔ BodyKeeps P body ∧ BodyKeeps P rest := by
  simp [BodyKeeps, or_imp, forall_and]

theorem bodyKeeps_flatMap {α : Type} {l : List α} {f : α → List (Stmt D)} (h : ∀ x ∈ l, BodyKeeps P (f x)) :
    BodyKeeps P (l.flatMap f) := by
  intro q hq
  obtain ⟨x, hx, hq⟩ := List.mem_flatMap.mp hq
  exact h x hx q hq

/-- What the statements and the exceptions of an operation keep, its launch keeps. -/
theorem launch_keeps {u : Driver D} {op : Instr} {pr : Program D} (hb : BodyKeeps P pr.body)
    (hx : ∀ d, P d → P (pr.onException d)) (h : P u.data) : P (u.launch op pr).data := by
  refine settle_data u op pr _ (run_keeps P (fun _ => True) pr.body (fun q hq => ?_) 0 _ _ h).1 hx
  have hq := hb q hq
  cases q with
  | assign f => exact hq
  | check ok => trivial
  | ret v => trivial
  | call ev an => exact fun d hd => ⟨trivial, fun a => hq a d hd⟩

end Keeps

/-- Pin `q` of the latch is at `level`. -/
def PinAt (q : BitVec 3) (level : Bool) (d : LcdData) : Prop := pinLevel d.latch q = level

/-- Pin writes leave every other pin. -/
theorem pinStmts_keepPin {q : BitVec 3} {level : Bool} {ws : List (BitVec 3 × Bool)} (h : ∀ w ∈ ws, w.1 ≠ q) :
    BodyKeeps (PinAt q level) (pinStmts p ws) := by
  refine bodyKeeps_flatMap fun w hw => ?_
  have hne : q ≠ w.1 := (h w hw).symm
  simp [setPinStmts, latchWrite, delayCall, PinAt, hne]

/-- The initialization leaves every pin that is not named. -/
theorem lcdInitBody_keepPin {q : BitVec 3} {level : Bool} (h : q ∉ p.pins) :
    BodyKeeps (PinAt q level) (lcdInitBody p) := by
  have hne : ∀ w ∈ initPins p ++ homePins p, w.1 ≠ q := fun w hw he => h (he ▸ initPins_homePins_mem hw)
  have hinit := pinStmts_keepPin (p := p) (level := level) fun w hw => hne w (List.mem_append_left _ hw)
  have hhome := pinStmts_keepPin (p := p) (level := level) fun w hw => hne w (List.mem_append_right _ hw)
  simp [lcdInitBody_eq, hinit, hhome, delayCall, PinAt]

/-- An operation other than `LCD.setPin` and `LCD.init` leaves every pin that no byte transfer uses; `LCD.init` leaves
every pin that is not named. -/
theorem lcdProgram_keepPin {i : Instr} {pr : Program LcdData} (h : lcdProgram Config.params i = some pr)
    (hi : ∀ pin level, i ≠ .lcdSetPin pin level) {q : BitVec 3} (level : Bool)
    (hq : q ∉ transferPins Config.params) (hinit : i = .lcdInit → q ∉ Config.params.pins) :
    BodyKeeps (PinAt q level) pr.body := by
  cases hw : pinWritesOf Config.params i with
  | some ws =>
    rw [lcdProgram_pins hw] at h
    cases h
    exact pinStmts_keepPin fun w hmem he => hq (he ▸ pinWritesOf_mem hw hi hmem)
  | none =>
    obtain rfl | rfl | rfl := lcd_without_pinWrites h hw
    · cases h
      exact lcdInitBody_keepPin (hinit rfl)
    · cases h
      simp [lcdProgramOf, lcdLatchBody, latchWrite, PinAt]
    · cases h
      simp [lcdProgramOf, lcdDirectionBody]

/-- Carrying out such an operation leaves the pin. -/
theorem exec_keepPin {i : Instr} {s t : State} (h : exec i s = .next t) (hi : ∀ pin level, i ≠ .lcdSetPin pin level)
    {q : BitVec 3} (hq : q ∉ transferPins Config.params) (hinit : i = .lcdInit → q ∉ Config.params.pins) :
    pinLevel t.lcd.data.latch q = pinLevel s.lcd.data.latch q := by
  obtain ⟨-, -, pr, -, rfl⟩ | ⟨-, -, pr, -, rfl⟩ | ⟨-, -, pr, hp, rfl⟩ := exec_next_cases h
  · rfl
  · rfl
  · have hx := (lcdProgram_writesLatchThrough hp).2
    refine launch_keeps (P := PinAt q (pinLevel s.lcd.data.latch q)) (lcdProgram_keepPin hp hi _ hq hinit) ?_ rfl
    rw [hx]
    exact fun d hd => hd

/-- Settles O35: the unused pin is not named and the backlight is no pin of a byte transfer (`exec_keepPin`). -/
theorem lcdUnusedAndBacklightKept : Obligations.LcdUnusedAndBacklightKept := by
  unfold Obligations.LcdUnusedAndBacklightKept
  intro i s t h hi
  refine ⟨fun q hq => ?_, fun hinit => ?_⟩
  · have hout := unusedPin_not_mem_pins hq
    exact exec_keepPin h hi (fun hmem => hout (List.mem_append_left _ hmem)) fun _ => hout
  · exact exec_keepPin h hi (backlight_not_mem_transferPins Config.params_valid) fun he => absurd he hinit

end Sys2Proof.Machine
end

section
/-! Which registers an operation can change, and what an exception leaves (60_exceptions.md R148; 40_segment.md R73 d;
41_matrix.md R98 d; 10_state.md R16): the operations of SEG and MAT check, then call, then at their end assign or
return, so an exception finds the registers as they were. -/

namespace Sys2Proof.Machine

/-! ### Bodies that change registers at their end only -/

section Quiet
variable {D : Type} {last body : List (Stmt D)}

/-- Checks and calls that change no register, and then the statements `last`. -/
inductive QuietThen (last : List (Stmt D)) : List (Stmt D) → Prop where
  | last : QuietThen last last
  | check (ok : Bool) {rest : List (Stmt D)} : QuietThen last rest → QuietThen last (.check ok :: rest)
  | call (ev : D → Event) {rest : List (Stmt D)} : QuietThen last rest → QuietThen last (plainCall ev :: rest)

theorem QuietThen.bodyKeeps {P : D → Prop} (h : QuietThen last body) (hl : BodyKeeps P last) : BodyKeeps P body := by
  induction h with
  | last => exact hl
  | check ok _ ih => exact (bodyKeeps_check ok).mpr ih
  | call ev _ ih => exact (bodyKeeps_plainCall ev).mpr ih

/-- A run of such a body ends before `last` with the registers as they were, or ends as a run of `last` on them. -/
theorem QuietThen.run_cases (h : QuietThen last body) (k : Nat) (d : D) (as : List Answer) :
    ((run body k d as).data = d ∧ ∀ v, (run body k d as).stop ≠ .returned v) ∨
      ∃ k' as', (run body k d as).data = (run last k' d as').data ∧
        (run body k d as).stop = (run last k' d as').stop := by
  induction h generalizing k as with
  | last => exact .inr ⟨k, as, rfl, rfl⟩
  | check ok _ ih =>
    cases ok with
    | true => exact ih (k + 1) as
    | false => exact .inl ⟨rfl, by simp⟩
  | call ev _ ih =>
    match as with
    | [] => exact .inl ⟨rfl, by simp [plainCall]⟩
    | .complete :: as => exact ih (k + 1) as
    | .fail :: as => exact .inl ⟨rfl, by simp [plainCall]⟩

/-- If `last` always returns, an exception leaves the registers as they were. -/
theorem QuietThen.data_of_raised (h : QuietThen last body) (hl : ∀ k d as, ∃ v, (run last k d as).stop = .returned v)
    {k : Nat} {d : D} {as : List Answer} {st : Status} (hs : (run body k d as).stop = .raised st) :
    (run body k d as).data = d := by
  obtain ⟨hd, -⟩ | ⟨k', as', -, hstop⟩ := h.run_cases k d as
  · exact hd
  · obtain ⟨v, hv⟩ := hl k' d as'
    rw [hs, hv] at hstop
    cases hstop

/-- If `last` always returns 0, so does the body if it returns. -/
theorem QuietThen.value_of_returned (h : QuietThen last body) (hl : ∀ k d as, (run last k d as).stop = .returned false)
    {k : Nat} {d : D} {as : List Answer} {v : Bool} (hs : (run body k d as).stop = .returned v) : v = false := by
  obtain ⟨-, hne⟩ | ⟨k', as', -, hstop⟩ := h.run_cases k d as
  · exact absurd hs (hne v)
  · rw [hs, hl] at hstop
    exact Stop.returned.inj hstop

end Quiet

/-- The statements that end an operation of SEG. -/
def segLast (op : Instr) : List (Stmt SegData) :=
  match op with
  | .segClear => [.assign (fun d => { d with fb := Vector.replicate 16 0 })]
  | .segSetEnabled enabled => [.assign (fun d => { d with life := if enabled then .enabled else .disabled })]
  | .segWriteBuffer index value =>
    [.assign (fun d => { d with fb := writeEntry d.fb (nibbleField index) (byteField value) })]
  | _ => []

/-- The statements that end an operation of MAT. -/
def matLast (op : Instr) : List (Stmt MatData) :=
  match op with
  | .matClear => [.assign (fun d => { d with fb := Vector.replicate 8 0 })]
  | .matSetEnabled enabled => [.assign (fun d => { d with life := if enabled then .enabled else .disabled })]
  | .matSetPixel x y enabled => [.assign (fun d => { d with fb := writePixel d.fb (rowField x) (rowField y) enabled })]
  | .matGetPixel x y => [.ret (fun d => readPixel d.fb (rowField x) (rowField y))]
  | _ => []

section Ends
variable {p : Params} {op : Instr}

theorem segProgram_quiet {pr : Program SegData} (h : segProgram p op = some pr) : QuietThen (segLast op) pr.body := by
  cases op with
  | segClear => cases h; exact .last
  | segRefresh => cases h; exact .call _ (.call _ .last)
  | segSetEnabled e => cases h; exact .call _ (.call _ .last)
  | segSetBlinkRate v => cases h; exact .check _ (.call _ .last)
  | segSetBrightness v => cases h; exact .check _ (.call _ .last)
  | segExecute c v => cases h; exact .check _ (.check _ (.call _ .last))
  | segWriteBuffer k v => cases h; exact .check _ (.check _ .last)
  | _ => cases h <;> exact .call _ .last

theorem matProgram_quiet {pr : Program MatData} (h : matProgram p op = some pr) : QuietThen (matLast op) pr.body := by
  cases op with
  | matClear => cases h; exact .last
  | matRefresh =>
    cases h
    exact .call _ (.call _ (.call _ (.call _ (.call _ (.call _ (.call _ (.call _ .last)))))))
  | matSetEnabled e =>
    cases h
    cases e with
    | true => exact .call _ (.call _ (.call _ .last))
    | false => exact .call _ .last
  | matSetBrightness v => cases h; exact .check _ (.call _ .last)
  | matSetPixel x y e => cases h; exact .last
  | matGetPixel x y => cases h; exact .last
  | matRefreshRow v => cases h; exact .check _ (.call _ .last)
  | _ => cases h <;> exact .call _ .last

theorem run_segLast (op : Instr) (k : Nat) (d : SegData) (as : List Answer) :
    (run (segLast op) k d as).stop = .returned false := by
  cases op <;> rfl

theorem run_matLast (op : Instr) (k : Nat) (d : MatData) (as : List Answer) :
    ∃ v, (run (matLast op) k d as).stop = .returned v := by
  cases op <;> exact ⟨_, rfl⟩

theorem run_matLast_zero {op : Instr} (h : ∀ x y, op ≠ .matGetPixel x y) (k : Nat) (d : MatData) (as : List Answer) :
    (run (matLast op) k d as).stop = .returned false := by
  cases op with
  | matGetPixel x y => exact absurd rfl (h x y)
  | _ => rfl

end Ends

/-! ### Which operations change which registers -/

section Registers
variable {i : Instr}

theorem segLast_keepsFb (hc : i ≠ .segClear) (hw : ∀ k v, i ≠ .segWriteBuffer k v) (fb : Vector Byte 16) :
    BodyKeeps (fun d => d.fb = fb) (segLast i) := by
  cases i with
  | segClear => exact absurd rfl hc
  | segWriteBuffer k v => exact absurd rfl (hw k v)
  | segSetEnabled e => simp [segLast]
  | _ => exact bodyKeeps_nil

theorem segLast_keepsLife (he : ∀ e, i ≠ .segSetEnabled e) (life : Life) :
    BodyKeeps (fun d => d.life = life) (segLast i) := by
  cases i with
  | segClear => simp [segLast]
  | segWriteBuffer k v => simp [segLast]
  | segSetEnabled e => exact absurd rfl (he e)
  | _ => exact bodyKeeps_nil

theorem matLast_keepsFb (hc : i ≠ .matClear) (hw : ∀ x y e, i ≠ .matSetPixel x y e) (fb : Vector Byte 8) :
    BodyKeeps (fun d => d.fb = fb) (matLast i) := by
  cases i with
  | matClear => exact absurd rfl hc
  | matSetPixel x y e => exact absurd rfl (hw x y e)
  | matSetEnabled e => simp [matLast]
  | matGetPixel x y => simp [matLast]
  | _ => exact bodyKeeps_nil

theorem matLast_keepsLife (he : ∀ e, i ≠ .matSetEnabled e) (life : Life) :
    BodyKeeps (fun d => d.life = life) (matLast i) := by
  cases i with
  | matClear => simp [matLast]
  | matSetPixel x y e => simp [matLast]
  | matGetPixel x y => simp [matLast]
  | matSetEnabled e => exact absurd rfl (he e)
  | _ => exact bodyKeeps_nil

/-- The exceptions of `SEG.setEnabled` make the lifecycle unknown; those of the others touch nothing. -/
theorem segProgram_exceptions {p : Params} {pr : Program SegData} (h : segProgram p i = some pr) :
    (∃ e, i = .segSetEnabled e ∧ pr = segSetEnabledProgram p e) ∨
      ((∀ e, i ≠ .segSetEnabled e) ∧ pr = segProgramOf pr.body) := by
  cases i with
  | segSetEnabled e => cases h; exact .inl ⟨e, rfl, rfl⟩
  | _ => cases h <;> exact .inr ⟨by simp, rfl⟩

/-- The exceptions of `MAT.setEnabled` make the lifecycle unknown; those of the others touch nothing. -/
theorem matProgram_exceptions {p : Params} {pr : Program MatData} (h : matProgram p i = some pr) :
    (∃ e, i = .matSetEnabled e ∧ pr = matSetEnabledProgram p e) ∨
      ((∀ e, i ≠ .matSetEnabled e) ∧ pr = matProgramOf pr.body) := by
  cases i with
  | matSetEnabled e => cases h; exact .inl ⟨e, rfl, rfl⟩
  | _ => cases h <;> exact .inr ⟨by simp, rfl⟩

section SegLaunch
variable {p : Params} {pr : Program SegData} {u : Driver SegData} (hp : segProgram p i = some pr)
include hp

/-- What the last statements keep, and the exceptions of `SEG.setEnabled` if that is the operation, is kept. -/
theorem launch_seg_keeps {P : SegData → Prop} (hl : BodyKeeps P (segLast i))
    (hx : ∀ e d, i = .segSetEnabled e → P d → P { d with life := .unknown }) (h : P u.data) :
    P (u.launch i pr).data := by
  refine launch_keeps ((segProgram_quiet hp).bodyKeeps hl) (fun d hd => ?_) h
  obtain ⟨e, he, rfl⟩ | ⟨-, hpr⟩ := segProgram_exceptions hp
  · exact hx e d he hd
  · rw [hpr]
    exact hd

theorem launch_seg_fb (hc : i ≠ .segClear) (hw : ∀ k v, i ≠ .segWriteBuffer k v) :
    (u.launch i pr).data.fb = u.data.fb :=
  launch_seg_keeps hp (segLast_keepsFb hc hw _) (fun _ _ _ hd => hd) rfl

theorem launch_seg_life (he : ∀ e, i ≠ .segSetEnabled e) : (u.launch i pr).data.life = u.data.life :=
  launch_seg_keeps hp (segLast_keepsLife he _) (fun e _ hi => absurd hi (he e)) rfl

end SegLaunch

section MatLaunch
variable {p : Params} {pr : Program MatData} {u : Driver MatData} (hp : matProgram p i = some pr)
include hp

/-- What the last statements keep, and the exceptions of `MAT.setEnabled` if that is the operation, is kept. -/
theorem launch_mat_keeps {P : MatData → Prop} (hl : BodyKeeps P (matLast i))
    (hx : ∀ e d, i = .matSetEnabled e → P d → P { d with life := .unknown }) (h : P u.data) :
    P (u.launch i pr).data := by
  refine launch_keeps ((matProgram_quiet hp).bodyKeeps hl) (fun d hd => ?_) h
  obtain ⟨e, he, rfl⟩ | ⟨-, hpr⟩ := matProgram_exceptions hp
  · exact hx e d he hd
  · rw [hpr]
    exact hd

theorem launch_mat_fb (hc : i ≠ .matClear) (hw : ∀ x y e, i ≠ .matSetPixel x y e) :
    (u.launch i pr).data.fb = u.data.fb :=
  launch_mat_keeps hp (matLast_keepsFb hc hw _) (fun _ _ _ hd => hd) rfl

theorem launch_mat_life (he : ∀ e, i ≠ .matSetEnabled e) : (u.launch i pr).data.life = u.data.life :=
  launch_mat_keeps hp (matLast_keepsLife he _) (fun e _ hi => absurd hi (he e)) rfl

end MatLaunch

theorem pinStmts_keepLife (p : Params) (P : LcdLife → Prop) (ws : List (BitVec 3 × Bool)) :
    BodyKeeps (fun d => P d.life) (pinStmts p ws) :=
  bodyKeeps_flatMap fun w _ => by simp [setPinStmts, latchWrite, delayCall]

theorem lcdProgram_keepsLife {pr : Program LcdData} (hp : lcdProgram Config.params i = some pr) (hi : i ≠ .lcdInit)
    (P : LcdLife → Prop) : BodyKeeps (fun d => P d.life) pr.body := by
  cases hw : pinWritesOf Config.params i with
  | some ws =>
    rw [lcdProgram_pins hw] at hp
    cases hp
    exact pinStmts_keepLife _ P ws
  | none =>
    obtain rfl | rfl | rfl := lcd_without_pinWrites hp hw
    · exact absurd rfl hi
    · cases hp
      simp [lcdProgramOf, lcdLatchBody, latchWrite]
    · cases hp
      simp [lcdProgramOf, lcdDirectionBody]

/-- No operation but the initialization makes LCD ready. -/
theorem launch_lcd_ready {pr : Program LcdData} {u : Driver LcdData} (hp : lcdProgram Config.params i = some pr)
    (hi : i ≠ .lcdInit) (h : (u.launch i pr).data.life = .ready) : u.data.life = .ready := by
  by_contra hu
  refine launch_keeps (P := fun d : LcdData => d.life ≠ .ready) (lcdProgram_keepsLife hp hi (· ≠ .ready)) ?_ hu h
  rw [(lcdProgram_writesLatchThrough hp).2]
  exact fun _ _ => by simp [lcdProgramOf]

/-- Settles O45: of the statements that end an operation only the listed ones assign the register (`segLast_keepsFb` and
the three like it, `launch_lcd_ready`). -/
theorem registersChangedOnlyByTheirOperations : Obligations.RegistersChangedOnlyByTheirOperations := by
  unfold Obligations.RegistersChangedOnlyByTheirOperations
  intro i s t h
  obtain ⟨-, -, pr, hp, rfl⟩ | ⟨-, -, pr, hp, rfl⟩ | ⟨-, -, pr, hp, rfl⟩ := exec_next_cases h
  · refine ⟨fun hne => ?_, fun hne => ?_, fun hne => absurd rfl hne, fun hne => absurd rfl hne, .inl⟩ <;> by_contra hi
    · push Not at hi
      exact hne (launch_seg_fb hp hi.1 hi.2)
    · exact hne (launch_seg_life hp (not_exists.mp hi))
  · refine ⟨fun hne => absurd rfl hne, fun hne => absurd rfl hne, fun hne => ?_, fun hne => ?_, .inl⟩ <;> by_contra hi
    · push Not at hi
      exact hne (launch_mat_fb hp hi.1 hi.2)
    · exact hne (launch_mat_life hp (not_exists.mp hi))
  · refine ⟨fun hne => absurd rfl hne, fun hne => absurd rfl hne, fun hne => absurd rfl hne, fun hne => absurd rfl hne,
      fun hready => ?_⟩
    by_cases hi : i = .lcdInit
    · exact .inr hi
    · exact .inl (launch_lcd_ready hp hi hready)

end Registers

/-! ### What an exception leaves -/

section Exceptions
variable {D : Type} {body : List (Stmt D)}

/-- Without a check the only exceptions are those of calls. -/
theorem run_unchecked_raised (hb : unchecked body = true) {k : Nat} {d : D} {as : List Answer} {st : Status}
    (h : (run body k d as).stop = .raised st) : ∃ e, st = failStatus e := by
  induction body generalizing k d as with
  | nil => cases h
  | cons q rest ih =>
    obtain ⟨hq, hrest⟩ := unchecked_cons.mp hb
    cases q with
    | assign f => exact ih hrest h
    | check ok => cases hq
    | ret v => cases h
    | call ev an =>
      match as with
      | [] => cases h
      | .complete :: as => exact ih hrest (as := as) h
      | .fail :: as => cases h; exact ⟨ev d, rfl⟩

theorem afterException_failStatus (onException : D → D) (e : Event) (d : D) :
    afterException onException (failStatus e) d = onException d := by
  cases e <;> rfl

/-- An operation that has ended with a status other than `OK` has met an exception. -/
theorem launch_raised {u : Driver D} {op : Instr} {pr : Program D} (hidle : (u.launch op pr).port.seq = .idle)
    (hst : (u.launch op pr).port.status ≠ .ok) :
    ∃ st, (run pr.body 0 u.data u.port.answers).stop = .raised st ∧
      (u.launch op pr).data = afterException pr.onException st (run pr.body 0 u.data u.port.answers).data := by
  obtain ⟨v, -, hl⟩ | ⟨st, hs, hl⟩ | ⟨k, -, hl⟩ := launch_cases u op pr
  · simp [hl] at hst
  · exact ⟨st, hs, by rw [hl, finished_data]⟩
  · simp [hl] at hidle

end Exceptions

section ExceptionLaunch
variable {p : Params} {i : Instr}

/-- An exception leaves the registers of SEG, but that in `SEG.setEnabled` it makes the lifecycle unknown. -/
theorem launch_seg_raised {u : Driver SegData} {pr : Program SegData} (hp : segProgram p i = some pr)
    (hidle : (u.launch i pr).port.seq = .idle) (hst : (u.launch i pr).port.status ≠ .ok) :
    (∃ e, i = .segSetEnabled e) ∧ (u.launch i pr).data = { u.data with life := .unknown } ∨
      (¬ ∃ e, i = .segSetEnabled e) ∧ (u.launch i pr).data = u.data := by
  obtain ⟨st, hs, hd⟩ := launch_raised hidle hst
  rw [(segProgram_quiet hp).data_of_raised (fun k d as => ⟨_, run_segLast i k d as⟩) hs] at hd
  obtain ⟨e, rfl, rfl⟩ | ⟨he, hpr⟩ := segProgram_exceptions hp
  · obtain ⟨ev, rfl⟩ := run_unchecked_raised rfl hs
    exact .inl ⟨⟨e, rfl⟩, by rw [hd, afterException_failStatus]; rfl⟩
  · rw [hpr, afterException_segProgramOf, ← hpr] at hd
    exact .inr ⟨not_exists.mpr he, hd⟩

/-- An exception leaves the registers of MAT, but that in `MAT.setEnabled` it makes the lifecycle unknown. -/
theorem launch_mat_raised {u : Driver MatData} {pr : Program MatData} (hp : matProgram p i = some pr)
    (hidle : (u.launch i pr).port.seq = .idle) (hst : (u.launch i pr).port.status ≠ .ok) :
    (∃ e, i = .matSetEnabled e) ∧ (u.launch i pr).data = { u.data with life := .unknown } ∨
      (¬ ∃ e, i = .matSetEnabled e) ∧ (u.launch i pr).data = u.data := by
  obtain ⟨st, hs, hd⟩ := launch_raised hidle hst
  rw [(matProgram_quiet hp).data_of_raised (run_matLast i) hs] at hd
  obtain ⟨e, rfl, rfl⟩ | ⟨he, hpr⟩ := matProgram_exceptions hp
  · have hb : unchecked (matSetEnabledProgram p e).body = true := by cases e <;> rfl
    obtain ⟨ev, rfl⟩ := run_unchecked_raised hb hs
    exact .inl ⟨⟨e, rfl⟩, by rw [hd, afterException_failStatus]; rfl⟩
  · rw [hpr, afterException_matProgramOf, ← hpr] at hd
    exact .inr ⟨not_exists.mpr he, hd⟩

/-- Every exception of LCD makes the lifecycle unknown. -/
theorem launch_lcd_raised {u : Driver LcdData} {pr : Program LcdData} (hp : lcdProgram Config.params i = some pr)
    (hidle : (u.launch i pr).port.seq = .idle) (hst : (u.launch i pr).port.status ≠ .ok) :
    (u.launch i pr).data.life = .unknown := by
  obtain ⟨st, hs, hd⟩ := launch_raised hidle hst
  obtain ⟨hb, hpr⟩ := lcdProgram_writesLatchThrough hp
  obtain ⟨e, rfl⟩ := run_unchecked_raised hb.unchecked hs
  rw [hd, afterException_failStatus, hpr]
  rfl

end ExceptionLaunch

/-- Settles O37: an exception finds the registers of SEG and MAT as they were (`QuietThen.data_of_raised`), and each
program says what it does to the lifecycle. -/
theorem lifecycleAfterException : Obligations.LifecycleAfterException := by
  unfold Obligations.LifecycleAfterException
  intro i s t h hidle hst
  obtain ⟨hu, -, pr, hp, rfl⟩ | ⟨hu, -, pr, hp, rfl⟩ | ⟨hu, -, pr, hp, rfl⟩ := exec_next_cases h <;>
    rw [hu] at hidle hst
  · have hmat : ¬ ∃ e, i = .matSetEnabled e := by rintro ⟨e, rfl⟩; cases hu
    have hlcd : i.unit ≠ .lcd := by simp [hu]
    rw [if_neg hmat, if_neg hlcd]
    obtain ⟨he, hd⟩ | ⟨he, hd⟩ := launch_seg_raised hp hidle hst <;> simp [hd, he]
  · have hseg : ¬ ∃ e, i = .segSetEnabled e := by rintro ⟨e, rfl⟩; cases hu
    have hlcd : i.unit ≠ .lcd := by simp [hu]
    rw [if_neg hseg, if_neg hlcd]
    obtain ⟨he, hd⟩ | ⟨he, hd⟩ := launch_mat_raised hp hidle hst <;> simp [hd, he]
  · have hseg : ¬ ∃ e, i = .segSetEnabled e := by rintro ⟨e, rfl⟩; cases hu
    have hmat : ¬ ∃ e, i = .matSetEnabled e := by rintro ⟨e, rfl⟩; cases hu
    rw [if_neg hseg, if_neg hmat, if_pos hu]
    exact ⟨rfl, rfl, rfl, rfl, launch_lcd_raised hp hidle hst⟩

end Sys2Proof.Machine
end

section
/-! Responses and unanswered calls (30_encoding.md R53, R54; 20_memory.md R30, R35; 60_exceptions.md R144; 10_state.md
R17, R20; 00_scope.md R5): an operation ends with one response or waits at a call, which a later answer resumes. -/

namespace Sys2Proof.Machine

/-- Settles O43: the five codes by definition, and they are distinct. -/
theorem statusCodesAsListed : Obligations.StatusCodesAsListed := by
  unfold Obligations.StatusCodesAsListed
  refine ⟨rfl, rfl, rfl, rfl, rfl, fun st st' h => ?_⟩
  cases st <;> cases st' <;> first | rfl | cases h

/-- Settles O42: an operation is its program handed to its unit, which refuses it while busy (`exec_seg`, `exec_mat`,
`exec_lcd`). -/
theorem busyUnitIsHandedNothing : Obligations.BusyUnitIsHandedNothing := by
  unfold Obligations.BusyUnitIsHandedNothing
  intro i s hbusy
  obtain ⟨hu, ⟨pr, hp⟩, -⟩ | ⟨hu, ⟨pr, hp⟩, -⟩ | ⟨hu, ⟨pr, hp⟩, -⟩ := program_exists Config.params i <;>
    rw [hu] at hbusy
  · rw [unitIdle_seg] at hbusy
    exact .inl (by simp [exec_seg hp, startSeg, hbusy])
  · rw [unitIdle_mat] at hbusy
    exact (exec_mat hp s).imp_left fun he => by simp [he, startMat, hbusy]
  · rw [unitIdle_lcd] at hbusy
    exact .inl (by simp [exec_lcd hp, startLcd, hbusy])

section Launch
variable {D : Type} {u : Driver D} {op : Instr} {pr : Program D} {programs : Instr → Option (Program D)}

/-! ### The response of an operation that has ended -/

/-- An operation that has ended has given one response; its value is 1 only if its run returned 1. -/
theorem launch_response (hidle : (u.launch op pr).port.seq = .idle) :
    (u.launch op pr).port.responses =
      u.port.responses ++ [⟨(u.launch op pr).port.status, (u.launch op pr).port.value⟩] ∧
    ((u.launch op pr).port.value = true → (u.launch op pr).port.status = .ok ∧
      (run pr.body 0 u.data u.port.answers).stop = .returned true) := by
  obtain ⟨v, hs, hl⟩ | ⟨st, hs, hl⟩ | ⟨k, -, hl⟩ := launch_cases u op pr
  · simp [hl, hs]
  · simp [hl]
  · simp [hl] at hidle

/-- A body without `return` returns 0. -/
theorem run_plain_value {body : List (Stmt D)} (hb : ∀ q ∈ body, q.isPlain = true) {k : Nat} {d : D}
    {as : List Answer} {v : Bool} (h : (run body k d as).stop = .returned v) : v = false := by
  induction body generalizing k d as with
  | nil => cases h; rfl
  | cons q rest ih =>
    have hrest := fun q hq => hb q (List.mem_cons_of_mem _ hq)
    cases q with
    | assign f => exact ih hrest h
    | check ok =>
      cases ok with
      | true => exact ih hrest h
      | false => cases h
    | ret w => cases hb _ List.mem_cons_self
    | call ev an =>
      match as with
      | [] => cases h
      | .complete :: as => exact ih hrest (as := as) h
      | .fail :: as => cases h

/-- The statements of a body that writes the latch through hold no `return`. -/
theorem WritesLatchThrough.plain {p : Params} {body : List (Stmt LcdData)} (h : WritesLatchThrough p body) :
    ∀ q ∈ body, q.isPlain = true := by
  induction h with
  | nil => simp
  | change f _ ih => exact List.forall_mem_cons.mpr ⟨rfl, ih⟩
  | keep _ _ ih => exact List.forall_mem_cons.mpr ⟨rfl, ih⟩
  | write _ ih => exact List.forall_mem_cons.mpr ⟨rfl, ih⟩
  | other _ _ ih => exact List.forall_mem_cons.mpr ⟨rfl, ih⟩

/-! ### An unanswered call -/

/-- An operation that waits keeps its unit, and the event of its outstanding call is the last of its trace. -/
theorem launch_unanswered (hp : programs op = some pr) (hbusy : (u.launch op pr).port.seq ≠ .idle) :
    (∃ k, (u.launch op pr).port.seq = .busy op k) ∧ (u.launch op pr).port.responses = u.port.responses ∧
    (u.launch op pr).port.status = u.port.status ∧ (u.launch op pr).port.value = u.port.value ∧
    ∃ es e, (u.launch op pr).port.trace = u.port.trace ++ es ++ [e] ∧
      (u.launch op pr).outstanding programs = some e := by
  obtain ⟨v, -, hl⟩ | ⟨st, -, hl⟩ | ⟨k, hs, hl⟩ := launch_cases u op pr
  · simp [hl] at hbusy
  · simp [hl] at hbusy
  · obtain ⟨es, e, hes, hout⟩ := launch_outstanding hp hs
    refine ⟨⟨k, by simp [hl]⟩, by simp [hl], by simp [hl], by simp [hl], es, e, ?_, hout⟩
    simp [hl, hes]

/-! ### Other answers -/

/-- A unit with `as` as the answers it will get. -/
def Driver.withAnswers (u : Driver D) (as : List Answer) : Driver D := { u with port := { u.port with answers := as } }

theorem withAnswers_seg (s : State) (as : List Answer) :
    s.withAnswers .seg as = { s with seg := s.seg.withAnswers as } := rfl
theorem withAnswers_mat (s : State) (as : List Answer) :
    s.withAnswers .mat as = { s with mat := s.mat.withAnswers as } := rfl
theorem withAnswers_lcd (s : State) (as : List Answer) :
    s.withAnswers .lcd as = { s with lcd := s.lcd.withAnswers as } := rfl

/-- With enough good answers an operation ends, and its trace begins with that under any answers. -/
theorem launch_reliable (u : Driver D) (op : Instr) (pr : Program D) :
    ((u.withAnswers (reliable (callCount pr.body))).launch op pr).port.seq = .idle ∧
      (u.launch op pr).port.trace <+: ((u.withAnswers (reliable (callCount pr.body))).launch op pr).port.trace := by
  obtain ⟨hstop, hevents⟩ := run_reliable pr.body 0 u.data u.port.answers (callCount pr.body) le_rfl
  refine ⟨?_, ?_⟩
  · obtain ⟨v, -, hl⟩ | ⟨st, -, hl⟩ | ⟨k, hs, -⟩ :=
      launch_cases (u.withAnswers (reliable (callCount pr.body))) op pr
    · rw [hl, finished_seq]
    · rw [hl, finished_seq]
    · exact absurd hs (hstop k)
  · rw [Driver.launch, settle_trace, Driver.launch, settle_trace]
    exact (List.prefix_append_right_inj _).mpr hevents

/-- Going on from a waiting unit ends as the whole operation would have. -/
theorem settle_waitingAt (u : Driver D) (op : Instr) (pr : Program D) (d : D) (es : List Event) (k : Nat)
    (early late all : List Answer) (g : Progress D) :
    (((u.withAnswers early).waitingAt d es op k).withAnswers late).settle op pr g =
      (u.withAnswers all).settle op pr { g with events := es ++ g.events } := by
  obtain ⟨d', es', as, stop⟩ := g
  cases stop with
  | returned v => simp [Driver.finished, Driver.waitingAt, Driver.withAnswers]
  | raised st => simp [Driver.finished, Driver.waitingAt, Driver.withAnswers]
  | waiting j => simp [Driver.settle, Driver.advance, Driver.suspend, Driver.waitingAt, Driver.withAnswers]

/-- An operation that waits and then gets further answers goes on to where all the answers at once would have led. -/
theorem launch_goOnWith (hp : programs op = some pr) {early : List Answer} (late : List Answer)
    (hbusy : ((u.withAnswers early).launch op pr).port.seq ≠ .idle) :
    (((u.withAnswers early).launch op pr).withAnswers late).goOnWith programs =
      some ((u.withAnswers (early ++ late)).launch op pr) := by
  obtain ⟨v, -, hl⟩ | ⟨st, -, hl⟩ | ⟨k, hs, hl⟩ := launch_cases (u.withAnswers early) op pr
  · simp [hl] at hbusy
  · simp [hl] at hbusy
  · obtain ⟨g, hg, hrun⟩ := run_more_answers pr.body 0 u.data early late k hs
    have hg' : goOn (pr.body.drop k) k (run pr.body 0 u.data early).data late = some g := hg
    rw [hl, goOnWith_of_goOn (k := k) rfl hp hg', settle_waitingAt (all := early ++ late)]
    exact congrArg (fun g => some ((u.withAnswers (early ++ late)).settle op pr g)) hrun.symm

end Launch

/-! ### The same operation under other answers -/

theorem exec_seg_withAnswers {i : Instr} {pr : Program SegData} (hp : segProgram Config.params i = some pr) {s : State}
    (hidle : s.seg.isIdle = true) (as : List Answer) :
    exec i (s.withAnswers .seg as) = .next { s with seg := (s.seg.withAnswers as).launch i pr } := by
  rw [withAnswers_seg, exec_seg hp, startSeg_next]
  exact ⟨hidle, rfl⟩

theorem exec_mat_withAnswers {i : Instr} {pr : Program MatData} (hp : matProgram Config.params i = some pr)
    {s s' t : State} (h : exec i s' = .next t) (hidle : s.mat.isIdle = true) (as : List Answer) :
    exec i (s.withAnswers .mat as) = .next { s with mat := (s.mat.withAnswers as).launch i pr } := by
  rw [withAnswers_mat, exec_mat_of_next hp h, startMat_next]
  exact ⟨hidle, rfl⟩

theorem exec_lcd_withAnswers {i : Instr} {pr : Program LcdData} (hp : lcdProgram Config.params i = some pr) {s : State}
    (hidle : s.lcd.isIdle = true) (as : List Answer) :
    exec i (s.withAnswers .lcd as) = .next { s with lcd := (s.lcd.withAnswers as).launch i pr } := by
  rw [withAnswers_lcd, exec_lcd hp, startLcd_next]
  exact ⟨hidle, rfl⟩

/-! ### The statements -/

/-- Settles O38: one response by `launch_response`; of all operations only `MAT.getPixel` returns anything but 0. -/
theorem oneResponsePerOperation : Obligations.OneResponsePerOperation := by
  unfold Obligations.OneResponsePerOperation
  intro i s t h hidle
  obtain ⟨hu, -, pr, hp, rfl⟩ | ⟨hu, -, pr, hp, rfl⟩ | ⟨hu, -, pr, hp, rfl⟩ := exec_next_cases h <;>
    rw [hu] at hidle ⊢ <;> obtain ⟨hresponse, hvalue⟩ := launch_response hidle <;>
    refine ⟨hresponse, fun hv => ?_⟩ <;> obtain ⟨hok, hs⟩ := hvalue hv
  · cases (segProgram_quiet hp).value_of_returned (run_segLast i) hs
  · refine ⟨hok, ?_⟩
    by_contra hi
    push Not at hi
    cases (matProgram_quiet hp).value_of_returned (run_matLast_zero hi) hs
  · cases run_plain_value (lcdProgram_writesLatchThrough hp).1.plain hs

/-- Settles O39: `launch_unanswered` for the operation's own unit. -/
theorem unansweredCallKeepsUnitBusy : Obligations.UnansweredCallKeepsUnitBusy := by
  unfold Obligations.UnansweredCallKeepsUnitBusy
  intro i s t h hbusy
  obtain ⟨hu, -, pr, hp, rfl⟩ | ⟨hu, -, pr, hp, rfl⟩ | ⟨hu, -, pr, hp, rfl⟩ := exec_next_cases h <;>
    rw [hu] at hbusy ⊢
  · exact launch_unanswered hp hbusy
  · exact launch_unanswered hp hbusy
  · exact launch_unanswered hp hbusy

/-- Settles O40: with enough good answers the same program ends, and its trace begins with the other
(`launch_reliable`). -/
theorem traceBeginsReliableTrace : Obligations.TraceBeginsReliableTrace := by
  unfold Obligations.TraceBeginsReliableTrace
  intro i s t h
  obtain ⟨hu, hidle, pr, hp, rfl⟩ | ⟨hu, hidle, pr, hp, rfl⟩ | ⟨hu, hidle, pr, hp, rfl⟩ := exec_next_cases h <;>
    rw [hu]
  · exact ⟨_, _, exec_seg_withAnswers hp hidle _, launch_reliable s.seg i pr⟩
  · exact ⟨_, _, exec_mat_withAnswers hp h hidle _, launch_reliable s.mat i pr⟩
  · exact ⟨_, _, exec_lcd_withAnswers hp hidle _, launch_reliable s.lcd i pr⟩

theorem answerReady_of_busy {D : Type} {u : Driver D} {as : List Answer} (hbusy : u.port.seq ≠ .idle) (has : as ≠ []) :
    (u.withAnswers as).answerReady = true := by
  have hidle : (u.withAnswers as).isIdle = false := (isIdle_false_iff _).mpr hbusy
  simp only [Driver.answerReady, hidle]
  simpa [Driver.withAnswers] using has

/-- Settles O41: with no request and no other unit ready the step is the waiting unit going on (`launch_goOnWith`). -/
theorem answersInPiecesOrAtOnce : Obligations.AnswersInPiecesOrAtOnce := by
  unfold Obligations.AnswersInPiecesOrAtOnce
  intro i s t early late h hbusy hlate hreq hother
  obtain ⟨hu, hidle, pr, hp, rfl⟩ | ⟨hu, hidle, pr, hp, rfl⟩ | ⟨hu, hidle, pr, hp, rfl⟩ := exec_next_cases h <;>
    rw [hu] at hbusy hother hidle h ⊢ <;> refine (step_of_no_request (by exact hreq)).trans ?_
  · rw [exec_seg_withAnswers (s := s) hp hidle]
    exact goOnOrWait_seg (answerReady_of_busy hbusy hlate) (launch_goOnWith hp late hbusy)
  · rw [exec_mat_withAnswers (s := s) hp h hidle]
    exact goOnOrWait_mat (hother .seg (by simp)) (answerReady_of_busy hbusy hlate) (launch_goOnWith hp late hbusy)
  · rw [exec_lcd_withAnswers (s := s) hp hidle]
    exact goOnOrWait_lcd (hother .seg (by simp)) (hother .mat (by simp)) (answerReady_of_busy hbusy hlate)
      (launch_goOnWith hp late hbusy)

end Sys2Proof.Machine
end

section
/-! How many transactions an operation that returns OK makes, and how long it takes at least (40_segment.md R73,
41_matrix.md R98, 42_lcd.md R117, 70_reset_and_hazards.md R192): a run that returns has made every call of its body. -/

namespace Sys2Proof.Machine

variable {D : Type}

/-! ### The weight of a body -/

/-- The calls of the body, each of which has its weight whatever the registers are, weigh `n` together. -/
inductive Weighs (w : Event → Nat) : List (Stmt D) → Nat → Prop where
  | nil : Weighs w [] 0
  | assign (f : D → D) {rest : List (Stmt D)} {n : Nat} : Weighs w rest n → Weighs w (.assign f :: rest) n
  | check (ok : Bool) {rest : List (Stmt D)} {n : Nat} : Weighs w rest n → Weighs w (.check ok :: rest) n
  | ret (v : D → Bool) {rest : List (Stmt D)} : Weighs w (.ret v :: rest) 0
  | call {ev : D → Event} (an : Answer → D → D) {c : Nat} (hev : ∀ d, w (ev d) = c) {rest : List (Stmt D)} {n : Nat} :
      Weighs w rest n → Weighs w (.call ev an :: rest) (c + n)

section Weight
variable {w : Event → Nat} {body rest : List (Stmt D)} {n : Nat}

/-- The events of a run that returns weigh what its body weighs. -/
theorem Weighs.sum_of_returned (h : Weighs w body n) {k : Nat} {d : D} {as : List Answer} {v : Bool}
    (hs : (run body k d as).stop = .returned v) : ((run body k d as).events.map w).sum = n := by
  induction h generalizing k d as with
  | nil => rfl
  | assign f _ ih => exact ih hs
  | check ok _ ih =>
    cases ok with
    | true => exact ih hs
    | false => cases hs
  | ret v => rfl
  | call an hev _ ih =>
    match as with
    | [] => cases hs
    | .complete :: as => simp [hev, ih (as := as) hs]
    | .fail :: as => cases hs

theorem run_raised_ne_ok {k : Nat} {d : D} {as : List Answer} {st : Status} (h : (run body k d as).stop = .raised st) :
    st ≠ .ok := by
  induction body generalizing k d as with
  | nil => cases h
  | cons q rest ih =>
    cases q with
    | assign f => exact ih h
    | check ok =>
      cases ok with
      | true => exact ih h
      | false => cases h; simp
    | ret v => cases h
    | call ev an =>
      match as with
      | [] => cases h
      | .complete :: as => exact ih (as := as) h
      | .fail :: as => cases h; cases ev d <;> simp [failStatus]

/-- The events of an operation that has returned `OK` weigh what its body weighs. -/
theorem launch_weight {u : Driver D} {op : Instr} {pr : Program D} {es : List Event} (hw : Weighs w pr.body n)
    (hidle : (u.launch op pr).port.seq = .idle) (hok : (u.launch op pr).port.status = .ok)
    (htrace : (u.launch op pr).port.trace = u.port.trace ++ es) : (es.map w).sum = n := by
  rw [Driver.launch, settle_trace] at htrace
  obtain rfl := List.append_cancel_left htrace
  obtain ⟨v, hs, -⟩ | ⟨st, hs, hl⟩ | ⟨k, -, hl⟩ := launch_cases u op pr
  · exact hw.sum_of_returned hs
  · rw [hl, finished_status] at hok
    exact absurd hok (run_raised_ne_ok hs)
  · simp [hl] at hidle

/-- Pin writes weigh a latch write and a pulse delay each. -/
theorem Weighs.pins {p : Params} {w : Event → Nat} {a b n : Nat} {rest : List (Stmt LcdData)}
    (ha : ∀ v, w (.busReg p.lcdRegLatch v) = a) (hb : w (.delay .pulse) = b) (ws : List (BitVec 3 × Bool))
    (h : Weighs w rest n) : Weighs w (pinStmts p ws ++ rest) (ws.length * (a + b) + n) := by
  induction ws with
  | nil => simpa using h
  | cons x ws ih =>
    have hsum : (x :: ws).length * (a + b) + n = a + (b + (ws.length * (a + b) + n)) := by
      rw [List.length_cons, Nat.succ_mul]
      omega
    rw [hsum]
    simp only [pinStmts_cons, setPinStmts, latchWrite, delayCall, plainCall, List.cons_append, List.nil_append]
    exact .assign _ (.call _ (fun d => ha d.latch) (.call _ (fun _ => hb) ih))

end Weight

/-! ### Transactions -/

/-- The weight that counts transactions. -/
def transactionWeight (e : Event) : Nat := if isTransaction e then 1 else 0

theorem transactions_eq_sum (es : List Event) : transactions es = (es.map transactionWeight).sum := by
  induction es with
  | nil => rfl
  | cons e es ih =>
    rw [List.map_cons, List.sum_cons, ← ih, transactions, List.countP_cons, transactions, transactionWeight,
      Nat.add_comm]

/-- A transaction counts 1. -/
theorem Weighs.transaction {ev : D → Event} (hev : ∀ d, isTransaction (ev d) = true) {rest : List (Stmt D)} {n : Nat}
    (h : Weighs transactionWeight rest n) : Weighs transactionWeight (plainCall ev :: rest) (n + 1) := by
  rw [Nat.add_comm]
  exact .call _ (fun d => if_pos (hev d)) h

/-- A delay counts 0. -/
theorem Weighs.wait (kind : DelayKind) {rest : List (Stmt LcdData)} {n : Nat}
    (h : Weighs transactionWeight rest n) : Weighs transactionWeight (delayCall kind :: rest) n := by
  rw [← Nat.zero_add n]
  exact .call _ (fun _ => rfl) h

theorem matRows_transactions (p : Params) (rows : List (BitVec 3)) :
    Weighs transactionWeight (rows.flatMap (matRowBody p)) rows.length := by
  induction rows with
  | nil => exact .nil
  | cons r rows ih => exact .transaction (fun _ => rfl) ih

/-- Each pin write is one transaction. -/
theorem Weighs.pinTransactions {p : Params} (ws : List (BitVec 3 × Bool)) {rest : List (Stmt LcdData)} {n : Nat}
    (h : Weighs transactionWeight rest n) : Weighs transactionWeight (pinStmts p ws ++ rest) (ws.length + n) := by
  have hpins := Weighs.pins (p := p) (w := transactionWeight) (a := 1) (b := 0) (fun _ => rfl) rfl ws h
  simpa using hpins

theorem lcdInitBody_transactions (p : Params) : Weighs transactionWeight (lcdInitBody p) 107 := by
  rw [lcdInitBody_eq]
  exact .transaction (fun _ => rfl) (.pinTransactions (initPins p) (.wait _ (.pinTransactions (homePins p)
    (.wait _ (.assign _ .nil)))))

/-- The number of transactions of each request (40_segment.md R73, 41_matrix.md R98, 42_lcd.md R117). -/
def requestTransactions (i : Instr) : Nat :=
  match i with
  | .segSetBlinkRate _ => 1
  | .segSetBrightness _ => 1
  | .segExecute _ _ => 1
  | .segRefresh => 2
  | .segSetEnabled _ => 2
  | .matRefreshRow _ => 1
  | .matSetTestMode _ => 1
  | .matSetBrightness _ => 1
  | .matSetEnabled enabled => if enabled then 3 else 1
  | .matRefresh => 8
  | .lcdSetPin _ _ => 1
  | .lcdPulseEnable => 3
  | .lcdWrite8 _ _ => 15
  | .lcdCommand _ => 15
  | .lcdMessage text => 15 * text.length
  | .lcdInit => 107
  | _ => 0

section Requests
variable {p : Params} {i : Instr} (hr : i.isRequest = true)
include hr

theorem segProgram_transactions {pr : Program SegData} (h : segProgram p i = some pr) :
    Weighs transactionWeight pr.body (requestTransactions i) := by
  cases i with
  | segClear => cases h; exact .assign _ .nil
  | segRefresh => cases h; exact .transaction (fun _ => rfl) (.transaction (fun _ => rfl) .nil)
  | segSetEnabled e => cases h; exact .transaction (fun _ => rfl) (.transaction (fun _ => rfl) (.assign _ .nil))
  | segSetBlinkRate v => cases h; exact .check _ (.transaction (fun _ => rfl) .nil)
  | segSetBrightness v => cases h; exact .check _ (.transaction (fun _ => rfl) .nil)
  | segExecute c v => cases h; exact .check _ (.check _ (.transaction (fun _ => rfl) .nil))
  | segWriteBuffer k v => cases h; exact .check _ (.check _ (.assign _ .nil))
  | _ => simp [segProgram, Instr.isRequest] at h hr

theorem matProgram_transactions {pr : Program MatData} (h : matProgram p i = some pr) :
    Weighs transactionWeight pr.body (requestTransactions i) := by
  cases i with
  | matClear => cases h; exact .assign _ .nil
  | matRefresh => cases h; exact matRows_transactions p refreshRows
  | matSetEnabled e =>
    cases h
    cases e with
    | true =>
      exact .transaction (fun _ => rfl) (.transaction (fun _ => rfl) (.transaction (fun _ => rfl) (.assign _ .nil)))
    | false => exact .transaction (fun _ => rfl) (.assign _ .nil)
  | matSetTestMode e => cases h; exact .transaction (fun _ => rfl) .nil
  | matSetBrightness v => cases h; exact .check _ (.transaction (fun _ => rfl) .nil)
  | matSetPixel x y e => cases h; exact .assign _ .nil
  | matGetPixel x y => cases h; exact .ret _
  | matRefreshRow v => cases h; exact .check _ (.transaction (fun _ => rfl) .nil)
  | _ => simp [matProgram, Instr.isRequest] at h hr

theorem requestTransactions_pins {ws : List (BitVec 3 × Bool)} (h : pinWritesOf p i = some ws) :
    requestTransactions i = ws.length := by
  cases i with
  | lcdMessage text =>
    cases h
    exact (bytesPins_length true text).symm
  | lcdSetPin pin level => cases h; rfl
  | lcdPulseEnable => cases h; rfl
  | lcdWrite8 byte mode => cases h; rfl
  | lcdCommand byte => cases h; rfl
  | _ => simp [pinWritesOf, Instr.isRequest] at h hr

theorem lcdProgram_transactions {pr : Program LcdData} (h : lcdProgram Config.params i = some pr) :
    Weighs transactionWeight pr.body (requestTransactions i) := by
  cases hw : pinWritesOf Config.params i with
  | some ws =>
    rw [lcdProgram_pins hw] at h
    cases h
    rw [requestTransactions_pins hr hw]
    simpa [lcdProgramOf] using Weighs.pinTransactions (p := Config.params) ws .nil
  | none =>
    obtain rfl | rfl | rfl := lcd_without_pinWrites h hw
    · cases h
      exact lcdInitBody_transactions _
    · cases hr
    · cases hr

end Requests

/-- A request that returns `OK` has made its number of transactions. -/
theorem exec_transactions {i : Instr} {s t : State} {es : List Event} (h : exec i s = .next t) (hr : i.isRequest = true)
    (hidle : (t.portOf i.unit).seq = .idle) (hok : (t.portOf i.unit).status = .ok)
    (htrace : (t.portOf i.unit).trace = (s.portOf i.unit).trace ++ es) : transactions es = requestTransactions i := by
  rw [transactions_eq_sum]
  obtain ⟨hu, -, pr, hp, rfl⟩ | ⟨hu, -, pr, hp, rfl⟩ | ⟨hu, -, pr, hp, rfl⟩ := exec_next_cases h <;>
    rw [hu] at hidle hok htrace
  · exact launch_weight (segProgram_transactions hr hp) hidle hok htrace
  · exact launch_weight (matProgram_transactions hr hp) hidle hok htrace
  · exact launch_weight (lcdProgram_transactions hr hp) hidle hok htrace

/-- Settles O46: the numbers listed are those of `requestTransactions`. -/
theorem transactionCountsOnSuccess : Obligations.TransactionCountsOnSuccess := by
  unfold Obligations.TransactionCountsOnSuccess
  intro i s t es h hr hidle hok htrace
  have hcount := exec_transactions h hr hidle hok htrace
  cases i <;> first | exact hcount | cases hr

/-! ### Least times -/

/-- Each pin write takes at least one pulse delay. -/
theorem Weighs.pinTimes {p : Params} (ws : List (BitVec 3 × Bool)) {rest : List (Stmt LcdData)} {n : Nat}
    (h : Weighs (leastTime p) rest n) : Weighs (leastTime p) (pinStmts p ws ++ rest) (ws.length * p.tPulse + n) := by
  have hpins := Weighs.pins (p := p) (w := leastTime p) (a := 0) (b := p.tPulse) (fun _ => rfl) rfl ws h
  rwa [Nat.zero_add] at hpins

theorem Weighs.settleTime {p : Params} {rest : List (Stmt LcdData)} {n : Nat} (h : Weighs (leastTime p) rest n) :
    Weighs (leastTime p) (delayCall .settle :: rest) (p.tSettle + n) :=
  .call _ (fun _ => rfl) h

theorem lcdInitBody_time (p : Params) :
    Weighs (leastTime p) (lcdInitBody p) (106 * p.tPulse + 2 * p.tSettle) := by
  rw [lcdInitBody_eq]
  have hbody := Weighs.call (w := leastTime p) (ev := fun _ : LcdData => .busReg p.lcdRegDirection p.lcdDirAllOutput)
    (fun _ d => d) (c := 0) (fun _ => rfl) (.pinTimes (initPins p) (.settleTime (.pinTimes (homePins p)
      (.settleTime (.assign (fun d => { d with life := .ready }) .nil)))))
  have hsum : 0 + ((initPins p).length * p.tPulse + (p.tSettle + ((homePins p).length * p.tPulse + (p.tSettle + 0)))) =
      106 * p.tPulse + 2 * p.tSettle := by
    rw [initPins_length, homePins_length]
    omega
  rwa [hsum] at hbody

/-- Settles O47: a run that returns has waited every delay of its body. -/
theorem leastTimesOfTransfers : Obligations.LeastTimesOfTransfers := by
  unfold Obligations.LeastTimesOfTransfers
  intro i s t es h hidle hok htrace
  refine ⟨fun byte mode hi => ?_, fun hi => ?_⟩
  · subst hi
    obtain ⟨-, rfl⟩ := startLcd_next.mp h
    have htime := Weighs.pinTimes (p := Config.params) (write8Pins Config.params byte mode) .nil
    rw [List.append_nil] at htime
    exact (launch_weight htime hidle hok htrace).ge
  · subst hi
    obtain ⟨-, rfl⟩ := startLcd_next.mp h
    exact (launch_weight (lcdInitBody_time Config.params) hidle hok htrace).ge

end Sys2Proof.Machine
end

section
/-! Requests as a step takes them (00_scope.md R5, R7; 20_memory.md R35; 30_encoding.md R50, R61): carried out in an
idle unit, left with the host while the unit is busy, answered at once if the opcode is reserved. -/

namespace Sys2Proof.Machine

/-! ### Taking a request -/

theorem goOnOrWait_requests {s t : State} (h : goOnOrWait s = .next t) : t.requests = s.requests := by
  obtain ⟨u, -, -, rfl⟩ | ⟨u, -, -, rfl⟩ | ⟨u, -, -, rfl⟩ | rfl := goOnOrWait_cases h <;> rfl

/-- Settles O52: the equation of `step` for a request that decodes to an operation, by whether its unit is idle. -/
theorem stepRunsDecodedRequest : Obligations.StepRunsDecodedRequest := by
  unfold Obligations.StepRunsDecodedRequest
  intro s r rest i hr hd
  refine ⟨fun hidle => ?_, fun hbusy t h => ?_⟩
  · rw [step_of_operation hr hd, if_pos hidle]
  · rw [step_of_operation hr hd, if_neg (by simp [hbusy])] at h
    exact goOnOrWait_requests h

/-- Settles O53: with no request to take a step is `goOnOrWait`, which changes nothing while no answer has come. -/
theorem stepWaitsForAnswers : Obligations.StepWaitsForAnswers := by
  unfold Obligations.StepWaitsForAnswers
  intro s hready
  refine ⟨fun hr => ?_, fun r rest i hr hd hbusy => ?_⟩
  · rw [step_of_no_request hr, goOnOrWait_waits hready]
  · rw [step_of_operation hr hd, if_neg (by simp [hbusy]), goOnOrWait_waits hready]

/-! ### Reserved opcodes -/

theorem hiNibble_toNat (opcode : Byte) : (hiNibble opcode).toNat = opcode.toNat / 16 := by
  have hlt := opcode.isLt
  simp only [hiNibble, BitVec.extractLsb'_toNat, Nat.shiftRight_eq_div_pow]
  omega

/-- The unit of an opcode, by the number in its high nibble. -/
theorem unitOfOpcode_eq (opcode : Byte) :
    unitOfOpcode opcode = if opcode.toNat / 16 = 1 then some .seg else if opcode.toNat / 16 = 2 then some .mat
      else if opcode.toNat / 16 = 3 then some .lcd else none := by
  simp only [unitOfOpcode, ← BitVec.toNat_inj, hiNibble_toNat]
  rfl

/-- A response alone ends an operation that did nothing. -/
theorem respond_eq_finished {D : Type} (u : Driver D) (st : Status) (v : Bool) :
    u.respond st v = u.finished u.data [] u.port.answers st v := by
  simp [Driver.respond, Driver.finished]

/-- Settles O50: a reserved opcode is answered in the very step by the unit of its high nibble, or by the decoder. -/
theorem reservedOpcodeIsAnswered : Obligations.ReservedOpcodeIsAnswered := by
  unfold Obligations.ReservedOpcodeIsAnswered
  intro s r rest hr hd hi s'
  have answered : reservedReady r.opcode s = true → step s = .next (answerReserved r.opcode s') := fun hready => by
    rw [step_of_reserved hr hd, if_pos hready]
  refine ⟨fun h hidle => ?_, fun h hidle => ?_, fun h hidle => ?_, fun h => ?_⟩
  · have hu : unitOfOpcode r.opcode = some .seg := (unitOfOpcode_eq _).trans (if_pos h)
    rw [answered (by simpa [reservedReady, hu] using hidle)]
    simp only [answerReserved, hu, respond_eq_finished]
    rfl
  · have hu : unitOfOpcode r.opcode = some .mat := by rw [unitOfOpcode_eq]; simp only [hi] at h; simp [h]
    rw [answered (by simpa [reservedReady, hu] using hidle)]
    simp only [answerReserved, hu, respond_eq_finished]
    rfl
  · have hu : unitOfOpcode r.opcode = some .lcd := by rw [unitOfOpcode_eq]; simp only [hi] at h; simp [h]
    rw [answered (by simpa [reservedReady, hu] using hidle)]
    simp only [answerReserved, hu, respond_eq_finished]
    rfl
  · have hu : unitOfOpcode r.opcode = none := by
      rw [unitOfOpcode_eq, if_neg, if_neg, if_neg] <;> omega
    rw [answered (by simp [reservedReady, hu])]
    simp only [answerReserved, hu]
    rfl

/-! ### A placed request -/

/-- The opcode of a request names the unit of its operation. -/
theorem unitOfOpcode_of_decode {r : Request} {i : Instr} (h : decode r = .operation i) :
    unitOfOpcode r.opcode = some i.unit := by
  rw [unitOfOpcode_eq]
  unfold decode at h
  split at h
  case h_22 => cases h
  all_goals
    next hn =>
      rw [hn]
      cases h
      rfl

theorem freeUnit_idle (u : UnitId) (s : State) : (freeUnit (some u) s).unitIdle u = true := by
  cases u <;> rfl

theorem freeUnit_portOf (u v : UnitId) (s : State) :
    (freeUnit (some u) s).portOf v = if v = u then { s.portOf v with seq := .idle } else s.portOf v := by
  cases u <;> cases v <;> rfl

/-- Making a unit idle leaves all registers, the requests and the decoder's responses. -/
theorem freeUnit_frame (u : UnitId) (s : State) :
    (freeUnit (some u) s).seg.data = s.seg.data ∧ (freeUnit (some u) s).mat.data = s.mat.data ∧
    (freeUnit (some u) s).lcd.data = s.lcd.data ∧ (freeUnit (some u) s).decoderResponses = s.decoderResponses := by
  cases u <;> exact ⟨rfl, rfl, rfl, rfl⟩

theorem decode_of_decodeTableWord {nbits w : Nat} {i : Instr} (h : decodeTableWord nbits w = some i) :
    decode (requestOfBits nbits w) = .operation i := by
  unfold decodeTableWord at h
  cases hd : decode (requestOfBits nbits w) with
  | operation j => rw [hd] at h; cases h; rfl
  | reserved opcode => rw [hd] at h; cases h

/-- Settles O54: the placed request is the next, and its unit was made idle; the step takes it (`step_of_operation`). -/
theorem placedWordRunsNext : Obligations.PlacedWordRunsNext := by
  unfold Obligations.PlacedWordRunsNext
  intro s nbits w i h
  have hd := decode_of_decodeTableWord h
  have hu := unitOfOpcode_of_decode hd
  have hplaced : s.withFetchWord nbits w =
      { freeUnit (some i.unit) s with requests := requestOfBits nbits w :: s.requests } := by
    simp only [State.withFetchWord, placeRequest, hu]
  have hidle : (s.withFetchWord nbits w).unitIdle i.unit = true := by
    rw [hplaced]
    exact freeUnit_idle i.unit s
  obtain ⟨hseg, hmat, hlcd, hdecoder⟩ := freeUnit_frame i.unit s
  refine ⟨{ freeUnit (some i.unit) s with requests := s.requests }, ?_, rfl, hdecoder, hseg, hmat, hlcd,
    fun u => freeUnit_portOf i.unit u s⟩
  rw [step_of_operation rfl hd, if_pos hidle, hplaced]

end Sys2Proof.Machine
end
